-- ==== Sys2Proof/Word.lean ====
section
/-! DEFINITION. The word types of the engine: bytes, byte strings, fixed-size byte strings, the command word and the
64-bit counters (00_scope.md R9, R10, R11). -/

namespace Sys2Proof

/-- An unsigned 8-bit integer (R10). -/
abbrev Byte := BitVec 8

/-- A finite sequence of bytes in stream order, index 0 first (R10, R61). -/
abbrev Bytes := List Byte

/-- A byte string whose length the spec fixes, in stream order (R61). -/
abbrev Octets (n : Nat) := Vector Byte n

/-- "exactly 16 bytes; the atomic unit of CBC chaining" (R14). -/
abbrev Block := Octets 16

/-- A 32-byte key: `CK` or `MK` (R7, R24). -/
abbrev Key := Octets 32

/-- The 32-bit command word, and the width of a register read (R9, R38). -/
abbrev Word := BitVec 32

/-- A 64-bit byte counter (R9). -/
abbrev Counter := BitVec 64

end Sys2Proof
end

