-- ==== Sys2Proof/Syntax.lean ====
section
/-! DEFINITION. The command set: one constructor of `Instr` per row of spec/opcode_table.json, with the operand fields
and the payload of each command (30_encoding.md R80 to R86). -/

namespace Sys2Proof

/-- The closed set of media types (R14, R82). -/
inductive MediaType where
  | image
  | video
  | audio
  | document
  deriving DecidableEq, Repr

/-- The 18 defined opcodes (R83). -/
inductive Opcode where
  | kdf
  | keysLoad
  | cbcEnc
  | cbcDec
  | macNew
  | macUpdate
  | macFinal
  | macVerify
  | scNew
  | scFeed
  | scFinal
  | encStart
  | encFeed
  | encEnd
  | decStart
  | decFeed
  | decEnd
  | abort
  deriving DecidableEq, Repr

/-- The payload classes of R85. -/
inductive PayloadClass where
  | none
  | exactly (n : Nat)
  | any
  | ignored
  deriving DecidableEq, Repr

/-- Why a word and payload spell no command; each is an `IllegalCommand` (R84, R85, R89). -/
inductive DecodeError where
  /-- the opcode byte is not in the opcode map -/
  | undefinedOpcode
  /-- a bit outside the opcode's allowed fields is set -/
  | disallowedBits
  /-- a payload came with a command of class `none` -/
  | payloadNotAllowed
  deriving DecidableEq, Repr

/-- A command with its operands. `p` is the payload; commands of class `none` and `ABORT`, whose payload is discarded
unread, carry none (R85). -/
inductive Instr where
  | kdf (mt : MediaType) (p : Bytes)
  | keysLoad (p : Bytes)
  | cbcEnc (f seed : Bool) (p : Bytes)
  | cbcDec (f seed : Bool) (p : Bytes)
  | macNew
  | macUpdate (p : Bytes)
  | macFinal
  | macVerify (p : Bytes)
  | scNew
  | scFeed (p : Bytes)
  | scFinal
  | encStart (mt : MediaType) (sc : Bool) (p : Bytes)
  | encFeed (p : Bytes)
  | encEnd
  | decStart (mt : MediaType) (p : Bytes)
  | decFeed (p : Bytes)
  | decEnd
  | abort
  deriving DecidableEq, Repr

/-- The opcode of a command. -/
def Instr.opcode : Instr → Opcode
  | .kdf _ _ => .kdf
  | .keysLoad _ => .keysLoad
  | .cbcEnc _ _ _ => .cbcEnc
  | .cbcDec _ _ _ => .cbcDec
  | .macNew => .macNew
  | .macUpdate _ => .macUpdate
  | .macFinal => .macFinal
  | .macVerify _ => .macVerify
  | .scNew => .scNew
  | .scFeed _ => .scFeed
  | .scFinal => .scFinal
  | .encStart _ _ _ => .encStart
  | .encFeed _ => .encFeed
  | .encEnd => .encEnd
  | .decStart _ _ => .decStart
  | .decFeed _ => .decFeed
  | .decEnd => .decEnd
  | .abort => .abort

/-- The payload a command carries. -/
def Instr.payload : Instr → Bytes
  | .kdf _ p => p
  | .keysLoad p => p
  | .cbcEnc _ _ p => p
  | .cbcDec _ _ p => p
  | .macNew => []
  | .macUpdate p => p
  | .macFinal => []
  | .macVerify p => p
  | .scNew => []
  | .scFeed p => p
  | .scFinal => []
  | .encStart _ _ p => p
  | .encFeed p => p
  | .encEnd => []
  | .decStart _ p => p
  | .decFeed p => p
  | .decEnd => []
  | .abort => []

end Sys2Proof
end

