-- ==== Sys2Proof/Config.lean ====
section
/-! DEFINITION. What an implementation fixes: the constants of 00_scope.md R7 and the parameters of R8. The parameters
whose value the spec leaves open are constants without a body, so no proof can see a value of theirs (log entries
3 to 6). -/

namespace Sys2Proof.Config

/-! ### The constants of R7 -/

/-- `BLOCK`: bytes in a block. -/
def blockLen : Nat := 16
/-- `SECRET_LEN`. -/
def secretLen : Nat := 32
/-- `OKM_LEN`. -/
def okmLen : Nat := 112
/-- `IV_LEN`. -/
def ivLen : Nat := 16
/-- `CK_LEN`. -/
def ckLen : Nat := 32
/-- `MK_LEN`. -/
def mkLen : Nat := 32
/-- `TAG_LEN`. -/
def tagLen : Nat := 10
/-- `WIN_STRIDE`. -/
def winStride : Nat := 65536
/-- `WIN_LEN = WIN_STRIDE + WIN_OVERLAP`, with `WIN_OVERLAP = 16`. -/
def winLen : Nat := 65552
/-- `PAD_MAX`. -/
def padMax : Nat := 16
/-- The length of the key material `iv ++ ck ++ mk` (R104, R105). -/
def keySetLen : Nat := 80
/-- One more than the longest payload, 2^32 − 1 bytes (R9). -/
def payloadLimit : Nat := 4294967296
/-- One more than the largest counter value, 2^64 − 1 (R9). -/
def counterLimit : Nat := 18446744073709551616

/-! ### The parameters of R8 -/

/-- The AES-256 block primitive as a permutation of blocks for each key. DEDUCED (log 4): the parameter law
`AES_DEC(k, AES_ENC(k, b)) = b` of R8 on the finite set of blocks says exactly that the two are inverse bijections. -/
opaque aes : Key → Equiv.Perm Block

/-- `AES_ENC` (R8). -/
def aesEnc (k : Key) (b : Block) : Block := aes k b

/-- `AES_DEC` (R8). -/
def aesDec (k : Key) (b : Block) : Block := (aes k).symm b

/-- `HMAC`, HMAC-SHA256 as a parameter (R8; log 5). -/
opaque hmac : Bytes → Bytes → Octets 32

/-- The free choice behind `LABEL` (log 6). -/
opaque labelChoice : Equiv.Perm Bytes

/-- `LABEL` (R8, R102): four free byte strings under the one law of R102, that they are pairwise distinct. Every four
distinct byte strings are the images of the four one-byte strings below under some permutation, so nothing else is
assumed of them. -/
def label : MediaType → Bytes
  | .image => labelChoice [0]
  | .video => labelChoice [1]
  | .audio => labelChoice [2]
  | .document => labelChoice [3]

/-- The free choice behind `SPOOL_CAP`: how far it lies above its minimum of 16 bytes, or none for an unbounded spool
(log 3). -/
opaque spoolSlack : Option Nat

/-- `SPOOL_CAP` (R8, R212): OPEN, at least 16 bytes, possibly infinite (`none`). -/
def spoolCap : Option Nat := spoolSlack.map (16 + ·)

/-- `UNIT_ACCESS` (R8): the spec's choice is `true` (D5). -/
def unitAccess : Bool := true

end Sys2Proof.Config
end

