-- ==== Sys2Proof/Decode.lean ====
section
/-! DEFINITION. The opcode map of 30_encoding.md R83, the decoder of R84, R85 and R87, and the encoder written from the
same map. -/

namespace Sys2Proof

/-! ### The opcode map (R83) -/

/-- The opcodes in the order of R83. -/
def Opcode.all : List Opcode :=
  [.kdf, .keysLoad, .cbcEnc, .cbcDec, .macNew, .macUpdate, .macFinal, .macVerify, .scNew, .scFeed, .scFinal,
   .encStart, .encFeed, .encEnd, .decStart, .decFeed, .decEnd, .abort]

/-- Column OPC. -/
def Opcode.code : Opcode → Byte
  | .kdf => 0x01
  | .keysLoad => 0x02
  | .cbcEnc => 0x10
  | .cbcDec => 0x11
  | .macNew => 0x20
  | .macUpdate => 0x21
  | .macFinal => 0x22
  | .macVerify => 0x23
  | .scNew => 0x30
  | .scFeed => 0x31
  | .scFinal => 0x32
  | .encStart => 0x40
  | .encFeed => 0x41
  | .encEnd => 0x42
  | .decStart => 0x50
  | .decFeed => 0x51
  | .decEnd => 0x52
  | .abort => 0xFF

/-- Column match. -/
def Opcode.matchBits : Opcode → Word
  | .kdf => 0x00000001
  | .keysLoad => 0x00000002
  | .cbcEnc => 0x00000010
  | .cbcDec => 0x00000011
  | .macNew => 0x00000020
  | .macUpdate => 0x00000021
  | .macFinal => 0x00000022
  | .macVerify => 0x00000023
  | .scNew => 0x00000030
  | .scFeed => 0x00000031
  | .scFinal => 0x00000032
  | .encStart => 0x00000040
  | .encFeed => 0x00000041
  | .encEnd => 0x00000042
  | .decStart => 0x00000050
  | .decFeed => 0x00000051
  | .decEnd => 0x00000052
  | .abort => 0x000000FF

/-- Column mask. -/
def Opcode.mask : Opcode → Word
  | .kdf => 0xFFFFFCFF
  | .keysLoad => 0xFFFFFFFF
  | .cbcEnc => 0xFFFFF3FF
  | .cbcDec => 0xFFFFF3FF
  | .macNew => 0xFFFFFFFF
  | .macUpdate => 0xFFFFFFFF
  | .macFinal => 0xFFFFFFFF
  | .macVerify => 0xFFFFFFFF
  | .scNew => 0xFFFFFFFF
  | .scFeed => 0xFFFFFFFF
  | .scFinal => 0xFFFFFFFF
  | .encStart => 0xFFFFECFF
  | .encFeed => 0xFFFFFFFF
  | .encEnd => 0xFFFFFFFF
  | .decStart => 0xFFFFFCFF
  | .decFeed => 0xFFFFFFFF
  | .decEnd => 0xFFFFFFFF
  | .abort => 0xFFFFFFFF

/-- Column payload (R85). -/
def Opcode.payloadClass : Opcode → PayloadClass
  | .kdf => .exactly 32
  | .keysLoad => .exactly 80
  | .cbcEnc => .any
  | .cbcDec => .any
  | .macNew => .none
  | .macUpdate => .any
  | .macFinal => .none
  | .macVerify => .exactly 10
  | .scNew => .none
  | .scFeed => .any
  | .scFinal => .none
  | .encStart => .exactly 32
  | .encFeed => .any
  | .encEnd => .none
  | .decStart => .exactly 32
  | .decFeed => .any
  | .decEnd => .none
  | .abort => .ignored

/-- Column unit: the commands that exist only when `UNIT_ACCESS` is true (R86). -/
def Opcode.isUnit : Opcode → Bool
  | .kdf => false
  | .keysLoad => true
  | .cbcEnc => true
  | .cbcDec => true
  | .macNew => true
  | .macUpdate => true
  | .macFinal => true
  | .macVerify => true
  | .scNew => true
  | .scFeed => true
  | .scFinal => true
  | .encStart => false
  | .encFeed => false
  | .encEnd => false
  | .decStart => false
  | .decFeed => false
  | .decEnd => false
  | .abort => false

/-! ### Fields of the command word (R81) -/

/-- `OPC`, bits [7:0]. -/
def opcField (w : Word) : Byte := w.extractLsb' 0 8

/-- `MT`, bits [9:8]. -/
def mtField (w : Word) : BitVec 2 := w.extractLsb' 8 2

/-- `F`, bit 10. -/
def fField (w : Word) : Bool := w.getLsbD 10

/-- `S`, bit 11. -/
def sField (w : Word) : Bool := w.getLsbD 11

/-- `SC`, bit 12. -/
def scField (w : Word) : Bool := w.getLsbD 12

/-- The encoding of the media types (R82): 0 IMAGE, 1 VIDEO, 2 AUDIO, 3 DOCUMENT. -/
def MediaType.code : MediaType → BitVec 2
  | .image => 0
  | .video => 1
  | .audio => 2
  | .document => 3

/-- All four values of `MT` are legal (R82). -/
def mediaTypeOf (b : BitVec 2) : MediaType :=
  if b = 0 then .image else if b = 1 then .video else if b = 2 then .audio else .document

/-! ### Decoding (R84, R85, R87) -/

/-- The opcode a byte stands for, if it is in the opcode map. -/
def opcodeOf (b : Byte) : Option Opcode := Opcode.all.find? (fun op => op.code == b)

/-- The command of an opcode with the fields of the word and the payload. -/
def buildInstr (op : Opcode) (w : Word) (p : Bytes) : Instr :=
  match op with
  | .kdf => .kdf (mediaTypeOf (mtField w)) p
  | .keysLoad => .keysLoad p
  | .cbcEnc => .cbcEnc (fField w) (sField w) p
  | .cbcDec => .cbcDec (fField w) (sField w) p
  | .macNew => .macNew
  | .macUpdate => .macUpdate p
  | .macFinal => .macFinal
  | .macVerify => .macVerify p
  | .scNew => .scNew
  | .scFeed => .scFeed p
  | .scFinal => .scFinal
  | .encStart => .encStart (mediaTypeOf (mtField w)) (scField w) p
  | .encFeed => .encFeed p
  | .encEnd => .encEnd
  | .decStart => .decStart (mediaTypeOf (mtField w)) p
  | .decFeed => .decFeed p
  | .decEnd => .decEnd
  | .abort => .abort

/-- The command that a word and payload spell, or why they spell none. The checks stand in the order of R87; the check
of `UNIT_ACCESS`, which is about the engine and not the word, stands in the command wrapper (Machine/Ops.lean). -/
def decode (w : Word) (p : Bytes) : Except DecodeError Instr :=
  match opcodeOf (opcField w) with
  | none => .error .undefinedOpcode
  | some op =>
    if w &&& op.mask ≠ op.matchBits then .error .disallowedBits
    else if op.payloadClass = .none ∧ p ≠ [] then .error .payloadNotAllowed
    else .ok (buildInstr op w p)

/-- The payload of zeros that goes with a row's word: the table gives the payload, which travels beside the word (R80),
no bits. A class `exactly n` gets `n` zero bytes, every other class none (log 1). -/
def zeroPayload (w : Word) : Bytes :=
  match opcodeOf (opcField w) with
  | none => []
  | some op =>
    match op.payloadClass with
    | .exactly n => List.replicate n 0
    | .none => []
    | .any => []
    | .ignored => []

/-- The instruction that a row's bits decode to: the bits above `nbits` are 0, the payload's included. -/
def decodeTableWord (nbits w : Nat) : Option Instr :=
  let bits := w % 2 ^ nbits
  if bits < 4294967296 then
    match decode (BitVec.ofNat 32 bits) (zeroPayload (BitVec.ofNat 32 bits)) with
    | .ok i => some i
    | .error _ => none
  else none

/-! ### Encoding (R81) -/

/-- A command word from its fields, most significant first: reserved [31:13], SC, S, F, MT, OPC. -/
def commandWord (sc s f : Bool) (mt : BitVec 2) (op : Opcode) : Word :=
  0#19 ++ BitVec.ofBool sc ++ BitVec.ofBool s ++ BitVec.ofBool f ++ mt ++ op.code

/-- The word of a command. -/
def Instr.word : Instr → Word
  | .kdf mt _ => commandWord false false false mt.code .kdf
  | .keysLoad _ => commandWord false false false 0 .keysLoad
  | .cbcEnc f seed _ => commandWord false seed f 0 .cbcEnc
  | .cbcDec f seed _ => commandWord false seed f 0 .cbcDec
  | .macNew => commandWord false false false 0 .macNew
  | .macUpdate _ => commandWord false false false 0 .macUpdate
  | .macFinal => commandWord false false false 0 .macFinal
  | .macVerify _ => commandWord false false false 0 .macVerify
  | .scNew => commandWord false false false 0 .scNew
  | .scFeed _ => commandWord false false false 0 .scFeed
  | .scFinal => commandWord false false false 0 .scFinal
  | .encStart mt sc _ => commandWord sc false false mt.code .encStart
  | .encFeed _ => commandWord false false false 0 .encFeed
  | .encEnd => commandWord false false false 0 .encEnd
  | .decStart mt _ => commandWord false false false mt.code .decStart
  | .decFeed _ => commandWord false false false 0 .decFeed
  | .decEnd => commandWord false false false 0 .decEnd
  | .abort => commandWord false false false 0 .abort

/-- The transaction that submits a command: its word and its payload (R80). -/
def encode (i : Instr) : Word × Bytes := (i.word, i.payload)

end Sys2Proof
end

