-- ==== Sys2Proof/Machine/Operands.lean ====
section
/-! DEFINITION. Byte-string operations of 00_scope.md R10, 20_memory.md R61 and 41_cbc.md R120, and the pure functions
of the units: key schedule (R100, R101), CBC (R121, R122), padding (R123, R124), tags (R150, R151) and the sidecar's
window loop (R171). -/

namespace Sys2Proof.Machine

open Sys2Proof

/-! ### Byte strings -/

/-- `s[a:b]`, the bytes `a .. b-1` (R10). -/
def slice (s : Bytes) (a b : Nat) : Bytes := (s.drop a).take (b - a)

/-- A fixed-size byte string as bytes in stream order (R61). -/
def bytesOf {n : Nat} (v : Octets n) : Bytes := List.ofFn fun i : Fin n => v[i]

/-- The fixed-size byte string of the bytes of `s`, for `len(s) = n`. Every caller passes `n` bytes. -/
def octetsOf (n : Nat) (s : Bytes) : Octets n := Vector.ofFn fun i : Fin n => s.getD i 0

/-- `16×0x00` and `32×0x00` (R194). -/
def zeros (n : Nat) : Octets n := Vector.replicate n 0

/-- `a ⊕ b`, bytewise (R120). -/
def xorBlock (a b : Block) : Block := Vector.ofFn fun i : Fin 16 => a[i] ^^^ b[i]

/-- `block(s, i) = s[16i : 16i+16]` (R61, R120). -/
def block (s : Bytes) (i : Nat) : Block := octetsOf 16 (slice s (16 * i) (16 * i + 16))

/-- The blocks of `s`, for `len(s) = 16m` (R61). -/
def blocks (s : Bytes) : List Block := (List.range (s.length / 16)).map (block s)

/-- The byte string whose blocks are given. -/
def unblocks (bs : List Block) : Bytes := (bs.map bytesOf).flatten

/-! ### CBC (R121, R122) -/

/-- The loop of R121 over a list of blocks. -/
def cbcEncList (k : Key) : Block → List Block → List Block × Block
  | c, [] => ([], c)
  | c, x :: xs =>
    let y := Config.aesEnc k (xorBlock x c)
    let r := cbcEncList k y xs
    (y :: r.1, r.2)

/-- `cbc_enc_blocks(k, c, X)`: the ciphertext and the new chain state (R121). -/
def cbcEncBlocks (k : Key) (c : Block) (x : Bytes) : Bytes × Block :=
  let r := cbcEncList k c (blocks x)
  (unblocks r.1, r.2)

/-- The loop of R122 over a list of blocks. -/
def cbcDecList (k : Key) : Block → List Block → List Block × Block
  | c, [] => ([], c)
  | c, y :: ys =>
    let x := xorBlock (Config.aesDec k y) c
    let r := cbcDecList k y ys
    (x :: r.1, r.2)

/-- `cbc_dec_blocks(k, c, Y)`: the plaintext and the new chain state (R122). -/
def cbcDecBlocks (k : Key) (c : Block) (y : Bytes) : Bytes × Block :=
  let r := cbcDecList k c (blocks y)
  (unblocks r.1, r.2)

/-! ### Padding (R123, R124) -/

/-- The pad length `16 - (len(X) mod 16)` (R123). -/
def padLen (x : Bytes) : Nat := Config.blockLen - x.length % Config.blockLen

/-- `pkcs7_pad(X)` (R123). -/
def pkcs7Pad (x : Bytes) : Bytes := x ++ List.replicate (padLen x) (BitVec.ofNat 8 (padLen x))

/-- `pkcs7_unpad(X)` (R124); `none` is the error `InvalidPadding`. Its callers guarantee `len(X) ≥ 16`. -/
def pkcs7Unpad (x : Bytes) : Option Bytes :=
  match x.getLast? with
  | none => none
  | some p =>
    if 1 ≤ p.toNat ∧ p.toNat ≤ Config.padMax ∧ (x.drop (x.length - p.toNat)).all (· == p) then
      some (x.take (x.length - p.toNat))
    else none

/-! ### Tags (R150, R151) -/

/-- `tag10(k, m) = HMAC(k, m)[0:10]` (R150). -/
def tag10 (k : Key) (m : Bytes) : Bytes := (bytesOf (Config.hmac (bytesOf k) m)).take Config.tagLen

/-- `d`, the OR over all byte differences of two tags, every byte examined (R151). -/
def tagDiff (a b : Bytes) : Byte := (List.zipWith (· ^^^ ·) a b).foldl (· ||| ·) 0

/-- `ct_eq10(a, b)` (R151). Both lengths are 10 wherever it is called in a reachable state; elsewhere the result is
false unless they are (log 7). -/
def ctEq10 (a b : Bytes) : Bool :=
  a.length == Config.tagLen && b.length == Config.tagLen && tagDiff a b == 0

/-! ### Key schedule (R100, R101) -/

/-- The loop of R100: `n` more iterations, the next with index `i` and previous value `t`. -/
def hkdfLoop (prk info : Bytes) : Nat → Nat → Bytes → Bytes
  | 0, _, _ => []
  | n + 1, i, t =>
    let t' := bytesOf (Config.hmac prk (t ++ info ++ [BitVec.ofNat 8 i]))
    t' ++ hkdfLoop prk info n (i + 1) t'

/-- `hkdf_expand(prk, info, L)` (R100). -/
def hkdfExpand (prk info : Bytes) (len : Nat) : Bytes :=
  (hkdfLoop prk info ((len + 31) / 32) 1 []).take len

/-- The DerivedKeys `{iv, cipherKey, macKey}` (R14). -/
structure KeySet where
  iv : Block
  cipherKey : Key
  macKey : Key
  deriving DecidableEq, Repr

/-- The key set in `iv ++ ck ++ mk ++ …`, sliced at offsets 0/16/48 (R101, R105); what follows offset 80, RefKey, is
dropped (R25). -/
def keySetOf (okm : Bytes) : KeySet where
  iv := octetsOf 16 (slice okm 0 16)
  cipherKey := octetsOf 32 (slice okm 16 48)
  macKey := octetsOf 32 (slice okm 48 80)

/-- `iv ++ ck ++ mk` (R104). -/
def KeySet.bytes (k : KeySet) : Bytes := bytesOf k.iv ++ bytesOf k.cipherKey ++ bytesOf k.macKey

/-- `derive(secret, mt)` for a secret of 32 bytes (R101); the length check is the commands' (Machine/Ops.lean). -/
def derivedKeys (secret : Bytes) (mt : MediaType) : KeySet :=
  keySetOf (hkdfExpand secret (Config.label mt) Config.okmLen)

/-! ### Sidecar windows (R171) -/

/-- What the loop of R171 makes of a buffer: the new tags, their number, and the bytes left. -/
structure Windows where
  tags : Bytes
  count : Nat
  rest : Bytes
  deriving DecidableEq, Repr

/-- The loop of R171, at most `fuel` rounds. -/
def tagLoop (mk : Key) : Nat → Bytes → Windows
  | 0, buf => { tags := [], count := 0, rest := buf }
  | fuel + 1, buf =>
    if Config.winLen ≤ buf.length then
      let r := tagLoop mk fuel (buf.drop Config.winStride)
      { tags := tag10 mk (slice buf 0 Config.winLen) ++ r.tags, count := r.count + 1, rest := r.rest }
    else { tags := [], count := 0, rest := buf }

/-- `while len(SC_BUF) >= 65552` (R171). Each round drops 65536 bytes, so `len / 65536` rounds are enough. -/
def tagWindows (mk : Key) (buf : Bytes) : Windows := tagLoop mk (buf.length / Config.winStride) buf

end Sys2Proof.Machine
end

