-- ==== Sys2Proof/Machine/State.lean ====
section
/-! DEFINITION. The engine's architectural state (10_state.md R20), the host's transactions and replies, the reasons a
step can stop, and the state after reset (70_reset_and_hazards.md R270, R271). -/

namespace Sys2Proof.Machine

open Sys2Proof

/-- `MODE` (R22). -/
inductive Mode where
  | idle
  | enc
  | dec
  deriving DecidableEq, Repr

/-- `MAC_ST` and `SC_ST` (R27, R29): the lifecycle of a unit's context. -/
inductive Lifecycle where
  | none
  | active
  | final
  deriving DecidableEq, Repr

/-- The errors the engine latches in `ERR` (R240). Codes 11 to 15 are never written, so no constructor stands for
them. -/
inductive EngineError where
  | invalidKeyLength
  | unalignedInput
  | unalignedCiphertext
  | macMismatch
  | invalidPadding
  | invalidLength
  | useAfterFinalize
  | illegalCommand
  | sequenceError
  | spoolOverflow
  deriving DecidableEq, Repr

/-- The parameters of R8 that are plain data. They are fixed for the engine's lifetime (R43) and stand beside the
state because a step has no other argument (log 2). -/
structure Params where
  /-- `UNIT_ACCESS` -/
  unitAccess : Bool
  /-- `SPOOL_CAP`; `none` is the unbounded spool of R212 -/
  spoolCap : Option Nat
  deriving DecidableEq, Repr

/-- A transaction of the host (R230, R232, R234), a register write (R41) or the platform's reset (R270). -/
inductive Transaction where
  | submit (w : Word) (p : Bytes)
  | readReg (off : Nat)
  | writeReg (off : Nat) (v : Word)
  | drainOut (n : Nat)
  | drainSco (n : Nat)
  | reset
  deriving DecidableEq, Repr

/-- What a transaction returns to the host (R232, R234). `Submit` returns nothing (R230). -/
inductive Reply where
  | reg (v : Word)
  | outBytes (bs : Bytes)
  | scoBytes (bs : Bytes)
  deriving DecidableEq, Repr

/-- Why the model stops with a fault. -/
inductive Fault where
  /-- Raised by `submit` for a payload of 2^32 bytes or more, which no transport delivers (R80). Safe: the engine is
  never given such a transaction. -/
  | oversizedPayload
  deriving DecidableEq, Repr

/-- Why the model refuses a step. -/
inductive Refusal where
  /-- Raised by an arm of `exec` whose instruction has no meaning yet. Safe. -/
  | notModelled (mnemonic : String)
  /-- Raised by a command that would push a 64-bit counter past 2^64 − 1, which "has no meaning in the model
  (refused)" (R9, I10). Safe: the spec itself gives such a command no effect. -/
  | counterOverflow
  deriving DecidableEq, Repr

/-- The state record of R20, with the parameters and the host's side of the interface (log 1, log 2). -/
structure State where
  /-- the model's: `UNIT_ACCESS` and `SPOOL_CAP` (R8, R43) -/
  params : Params
  /-- `MODE` (R22) -/
  mode : Mode
  /-- `ERR`; `none` is code 0 (R23) -/
  err : Option EngineError
  /-- `ERR_OPC` (R23) -/
  errOpc : Byte
  /-- `KEYS_VALID` (R24) -/
  keysValid : Bool
  /-- `IV` (R24) -/
  iv : Block
  /-- `CK` (R24) -/
  cipherKey : Key
  /-- `MK` (R24) -/
  macKey : Key
  /-- `CHAIN` (R26) -/
  chain : Block
  /-- `MAC_ST` (R27) -/
  macSt : Lifecycle
  /-- `MAC_MSG` (R27, R28) -/
  macMsg : Bytes
  /-- `SC_ST` (R29) -/
  scSt : Lifecycle
  /-- `SC_EN` (R30) -/
  scEn : Bool
  /-- `SC_BUF` (R29) -/
  scBuf : Bytes
  /-- `SC_NEXT` (R29) -/
  scNext : Counter
  /-- `SC_END` (R29) -/
  scEnd : Counter
  /-- `SC_COUNT` (R29) -/
  scCount : Counter
  /-- `SC_TAGS` (R29) -/
  scTags : Bytes
  /-- `PEND` (R31) -/
  pend : Bytes
  /-- `TAIL` (R32) -/
  tail : Bytes
  /-- `SPOOL` (R33) -/
  spool : Bytes
  /-- `CONSUMED` (R34) -/
  consumed : Counter
  /-- `EMITTED` (R34) -/
  emitted : Counter
  /-- `DRAINED` (R35) -/
  drained : Bool
  /-- `FINALIZED` (R35) -/
  finalized : Bool
  /-- `OUT`, front first (R36) -/
  out : Bytes
  /-- `SCO`, front first (R36) -/
  sco : Bytes
  /-- the model's: the transactions the host has still to make, oldest first -/
  pending : List Transaction
  /-- the model's: what the host's reads and drains have returned, oldest first -/
  replies : List Reply
  deriving DecidableEq, Repr

/-- The reset column of R20 for an engine with the given parameters and host side. -/
def State.resetWith (params : Params) (pending : List Transaction) (replies : List Reply) : State where
  params := params
  mode := .idle
  err := none
  errOpc := 0
  keysValid := false
  iv := Vector.replicate 16 0
  cipherKey := Vector.replicate 32 0
  macKey := Vector.replicate 32 0
  chain := Vector.replicate 16 0
  macSt := .none
  macMsg := []
  scSt := .none
  scEn := false
  scBuf := []
  scNext := 0
  scEnd := 0
  scCount := 0
  scTags := []
  pend := []
  tail := []
  spool := []
  consumed := 0
  emitted := 0
  drained := false
  finalized := false
  out := []
  sco := []
  pending := pending
  replies := replies

/-- The machine right after power-on reset (R270, R271). No transaction has been made and none is pending (log 1). -/
def State.reset : State :=
  State.resetWith { unitAccess := Config.unitAccess, spoolCap := Config.spoolCap } [] []

end Sys2Proof.Machine
end

