-- ==== Sys2Proof/Machine/Ops.lean ====
section
/-! DEFINITION. The shared operations of the commands: the pseudocode primitives of 00_scope.md R12, raising an error
and leaving the error state (60_exceptions.md R241, R246), the checks every command makes before its rule (30_encoding.md
R87, R88), and the functions the units share (R103, R152, R170 to R173, R191, R194). -/

namespace Sys2Proof.Machine

open Sys2Proof

/-! ### How a command's pseudocode ends -/

/-- What can end a command's pseudocode before its last line. -/
inductive Stop where
  /-- `raise E` (R12) -/
  | raise (e : EngineError)
  /-- the command has no meaning in the model (R9) -/
  | refuse (r : Refusal)
  deriving DecidableEq, Repr

/-- The result of a command's pseudocode. The assignments made before a `raise` are dropped with the state they were
made in (R241). -/
abbrev Result (α : Type) := Except Stop α

/-- `require c else E` (R12). -/
def require (c : Bool) (e : EngineError) : Result Unit :=
  if c then .ok () else .error (.raise e)

/-- `COUNTER <- n` for a 64-bit counter; a value past 2^64 − 1 is refused (R9). -/
def toCounter (n : Nat) : Result Counter :=
  if n < Config.counterLimit then .ok (BitVec.ofNat 64 n) else .error (.refuse .counterOverflow)

/-! ### Errors (R241, R242, R246) -/

/-- `raise E` for the command word whose opcode byte is `opc`: only `ERR` and `ERR_OPC` change (R241). -/
def raiseError (opc : Byte) (e : EngineError) (s : State) : State := { s with err := some e, errOpc := opc }

/-- The way out of the error state: every element of R20 takes its reset value (R231, R246, R270). The parameters are
not state (R43), and the host's side is not the engine's. -/
def resetState (s : State) : State := State.resetWith s.params s.pending s.replies

/-- A submission that spells no command raises `IllegalCommand`, or has no effect in the error state (R84, R87,
R242). -/
def rejectWord (w : Word) (s : State) : Host.Outcome State Fault Refusal :=
  if s.err.isSome then .next s else .next (raiseError (opcField w) .illegalCommand s)

/-! ### The checks before a command's own rule (R87) -/

/-- Column modes of R83, for the commands other than `ABORT`, which is legal in all (R88, R231). -/
def modeLegal (op : Opcode) (m : Mode) : Bool :=
  match op with
  | .encFeed => m == .enc
  | .encEnd => m == .enc
  | .decFeed => m == .dec
  | .decEnd => m == .dec
  | .abort => true
  | .kdf => m == .idle
  | .keysLoad => m == .idle
  | .cbcEnc => m == .idle
  | .cbcDec => m == .idle
  | .macNew => m == .idle
  | .macUpdate => m == .idle
  | .macFinal => m == .idle
  | .macVerify => m == .idle
  | .scNew => m == .idle
  | .scFeed => m == .idle
  | .scFinal => m == .idle
  | .encStart => m == .idle
  | .decStart => m == .idle

/-- How a command ends: its last state, or the state before it with the error latched (R241), or a refusal (R9). -/
def finish (op : Opcode) (s : State) (r : Result State) : Host.Outcome State Fault Refusal :=
  match r with
  | .ok s' => .next s'
  | .error (.raise e) => .next (raiseError op.code e s)
  | .error (.refuse why) => .refused why

/-- The checks of R87 that follow decoding, in its order, and then the command's own pseudocode. In the error state the
command has no effect (R242). -/
def runCommand (op : Opcode) (s : State) (body : State → Result State) : Host.Outcome State Fault Refusal :=
  if s.err.isSome then .next s
  else finish op s (do
    require (!op.isUnit || s.params.unitAccess) .illegalCommand
    require (modeLegal op s.mode) .sequenceError
    body s)

/-! ### Streams (R12, R36) -/

/-- `emit_out(s)`. -/
def emitOut (bs : Bytes) (s : State) : State := { s with out := s.out ++ bs }

/-- `emit_sco(s)`. -/
def emitSco (bs : Bytes) (s : State) : State := { s with sco := s.sco ++ bs }

/-! ### Keys (R101, R103) -/

/-- `derive(secret, mt)` with its length check (R101). -/
def derive (secret : Bytes) (mt : MediaType) : Result KeySet := do
  require (secret.length == Config.secretLen) .invalidKeyLength
  return derivedKeys secret mt

/-- `load_keys(iv, ck, mk)` (R103). -/
def loadKeys (k : KeySet) (s : State) : State :=
  { s with
    iv := k.iv, cipherKey := k.cipherKey, macKey := k.macKey, keysValid := true
    chain := k.iv
    macSt := .none, macMsg := []
    scSt := .none, scBuf := [], scNext := 0, scEnd := 0, scCount := 0, scTags := [] }

/-! ### MAC (R152) -/

/-- `mac_init()`. -/
def macInit (s : State) : State := { s with macMsg := bytesOf s.iv, macSt := .active }

/-- `mac_feed(s)`. -/
def macFeed (bs : Bytes) (s : State) : State := { s with macMsg := s.macMsg ++ bs }

/-- The value of `mac_tag()`. -/
def macTag (s : State) : Bytes := tag10 s.macKey s.macMsg

/-- The write of `mac_tag()`: `MAC_ST <- FINAL`. -/
def macClose (s : State) : State := { s with macSt := .final }

/-- The two checks of the unit commands that use an accumulator or a sidecar context (R154, R155, R175, R176). -/
def requireLive (st : Lifecycle) : Result Unit := do
  require (st != .none) .sequenceError
  require (st != .final) .useAfterFinalize

/-! ### Sidecar (R170 to R173) -/

/-- `sc_init()` (R170). -/
def scInit (s : State) : State :=
  { s with scBuf := [], scNext := 0, scEnd := 0, scCount := 0, scTags := [], scSt := .active }

/-- `sc_feed(c)` (R171). -/
def scFeed (c : Bytes) (s : State) : Result State := do
  let w := tagWindows s.macKey (s.scBuf ++ c)
  let scEnd ← toCounter (s.scEnd.toNat + c.length)
  let scCount ← toCounter (s.scCount.toNat + w.count)
  let scNext ← toCounter (s.scNext.toNat + Config.winStride * w.count)
  return { s with scBuf := w.rest, scTags := s.scTags ++ w.tags, scEnd := scEnd, scCount := scCount, scNext := scNext }

/-- `sc_flush_trailing()` (R172). -/
def scFlushTrailing (s : State) : Result State :=
  if s.scNext.toNat < s.scEnd.toNat then do
    let scCount ← toCounter (s.scCount.toNat + 1)
    return { s with scTags := s.scTags ++ tag10 s.macKey s.scBuf, scCount := scCount, scBuf := [] }
  else return s

/-- The end of `sc_finalize()` (R173): the tags go to `SCO`. -/
def scRelease (s : State) : State := { emitSco s.scTags s with scTags := [], scSt := .final }

/-- `sc_finalize()` (R173). -/
def scFinalize (s : State) : Result State := do
  let s ← scFlushTrailing s
  return scRelease s

/-! ### Pipelines (R191, R194) -/

/-- `if SC_EN: sc_feed(Y)` (R191). -/
def scFeedIfEnabled (y : Bytes) (s : State) : Result State := if s.scEn then scFeed y s else .ok s

/-- `if SC_EN: sc_finalize()` (R193). -/
def scFinalizeIfEnabled (s : State) : Result State := if s.scEn then scFinalize s else .ok s

/-- `enc_emit(Y)` (R191). -/
def encEmit (y : Bytes) (s : State) : Result State := do
  let s ← scFeedIfEnabled y (macFeed y (emitOut y s))
  let emitted ← toCounter (s.emitted.toNat + y.length)
  return { s with emitted := emitted }

/-- `end_pipeline()` (R194). -/
def endPipeline (s : State) : State :=
  { s with
    iv := zeros 16, cipherKey := zeros 32, macKey := zeros 32, keysValid := false
    chain := zeros 16
    macSt := .none, macMsg := []
    scSt := .none, scBuf := [], scTags := []
    pend := [], tail := [], spool := []
    scEn := false
    drained := true, finalized := true
    mode := .idle }

/-- `len(SPOOL) + k <= SPOOL_CAP` (R211, R212). -/
def spoolFits (cap : Option Nat) (n : Nat) : Bool :=
  match cap with
  | none => true
  | some c => n ≤ c

/-! ### Host transactions other than commands (R232, R234, R41) -/

/-- `ReadReg(off)`: the value goes to the host, the engine is unchanged (R232). -/
def replyReg (v : Word) (s : State) : State := { s with replies := s.replies ++ [.reg v] }

/-- `DrainOut(n)` (R234). -/
def drainOut (n : Nat) (s : State) : State :=
  { s with out := s.out.drop n, replies := s.replies ++ [.outBytes (s.out.take n)] }

/-- `DrainSco(n)` (R234). -/
def drainSco (n : Nat) (s : State) : State :=
  { s with sco := s.sco.drop n, replies := s.replies ++ [.scoBytes (s.sco.take n)] }

end Sys2Proof.Machine
end

