-- ==== Sys2Proof/Machine/Cbc.lean ====
section
/-! DEFINITION. `CBC_ENC` and `CBC_DEC` (41_cbc.md R125, R126). -/

namespace Sys2Proof.Machine

open Sys2Proof

/-- `c0 <- IV if S == 1 else CHAIN` (R125, R126). -/
def chainSeed (seed : Bool) (s : State) : Block := if seed then s.iv else s.chain

/-- `len(p) > 0 and len(p) mod 16 == 0` (R125, R126, R213). -/
def wholeBlocks (p : Bytes) : Bool := 0 < p.length && p.length % Config.blockLen == 0

/-- The pseudocode of R125. -/
def cbcEncBody (f seed : Bool) (p : Bytes) (s : State) : Result State := do
  require s.keysValid .sequenceError
  require (f || wholeBlocks p) .unalignedInput
  let r := cbcEncBlocks s.cipherKey (chainSeed seed s) (if f then pkcs7Pad p else p)
  return emitOut r.1 { s with chain := r.2 }

/-- `CBC_ENC` (R125). -/
def execCbcEnc (f seed : Bool) (p : Bytes) (s : State) : Host.Outcome State Fault Refusal :=
  runCommand .cbcEnc s (cbcEncBody f seed p)

/-- `pkcs7_unpad` raising its error (R124). -/
def unpadOrRaise (x : Bytes) : Result Bytes :=
  match pkcs7Unpad x with
  | some p => .ok p
  | none => .error (.raise .invalidPadding)

/-- What a call delivers of its plaintext: all of it, or unpadded in a final call (R126). -/
def cbcDecOutput (f : Bool) (x : Bytes) : Result Bytes := if f then unpadOrRaise x else .ok x

/-- The pseudocode of R126. -/
def cbcDecBody (f seed : Bool) (p : Bytes) (s : State) : Result State := do
  require s.keysValid .sequenceError
  require (wholeBlocks p) .unalignedInput
  let r := cbcDecBlocks s.cipherKey (chainSeed seed s) p
  let x ← cbcDecOutput f r.1
  return emitOut x { s with chain := r.2 }

/-- `CBC_DEC` (R126). -/
def execCbcDec (f seed : Bool) (p : Bytes) (s : State) : Host.Outcome State Fault Refusal :=
  runCommand .cbcDec s (cbcDecBody f seed p)

end Sys2Proof.Machine
end

