-- ==== Sys2Proof/Machine/Control.lean ====
section
/-! DEFINITION. `ABORT` (46_host_and_control.md R231). -/

namespace Sys2Proof.Machine

open Sys2Proof

/-- `ABORT` (R231): legal in every mode and in the error state, the whole record takes its reset values. -/
def execAbort (s : State) : Host.Outcome State Fault Refusal := .next (resetState s)

end Sys2Proof.Machine
end

