-- ==== Sys2Proof/Machine/Decrypt.lean ====
section
/-! DEFINITION. `DEC_START`, `DEC_FEED` and `DEC_END` (45_decrypt_pipeline.md R210, R211, R213). -/

namespace Sys2Proof.Machine

open Sys2Proof

/-- The pseudocode of R210. -/
def decStartBody (mt : MediaType) (p : Bytes) (s : State) : Result State := do
  let k ← derive p mt
  let s := macInit (loadKeys k s)
  return { s with
    scEn := false
    tail := [], spool := [], consumed := 0, emitted := 0
    drained := false, finalized := false
    mode := .dec }

/-- `DEC_START` (R210). -/
def execDecStart (mt : MediaType) (p : Bytes) (s : State) : Host.Outcome State Fault Refusal :=
  runCommand .decStart s (decStartBody mt p)

/-- `k <- max(0, len(buf) - 10)`, the bytes now known not to be trailer (R211). -/
def nonTrailerLen (buf : Bytes) : Nat := buf.length - Config.tagLen

/-- The pseudocode of R211. -/
def decFeedBody (p : Bytes) (s : State) : Result State := do
  let buf := s.tail ++ p
  let k := nonTrailerLen buf
  require (spoolFits s.params.spoolCap (s.spool.length + k)) .spoolOverflow
  let s := macFeed (slice buf 0 k) s
  let consumed ← toCounter (s.consumed.toNat + p.length)
  return { s with spool := s.spool ++ slice buf 0 k, tail := buf.drop k, consumed := consumed }

/-- `DEC_FEED` (R211). -/
def execDecFeed (p : Bytes) (s : State) : Host.Outcome State Fault Refusal :=
  runCommand .decFeed s (decFeedBody p)

/-- The pseudocode of R213. -/
def decEndBody (s : State) : Result State := do
  require (Config.tagLen ≤ s.consumed.toNat) .invalidLength
  require (ctEq10 (macTag s) s.tail) .macMismatch
  require (wholeBlocks s.spool) .unalignedCiphertext
  let r := cbcDecBlocks s.cipherKey s.iv s.spool
  let p ← unpadOrRaise r.1
  let emitted ← toCounter p.length
  return endPipeline { emitOut p s with emitted := emitted }

/-- `DEC_END` (R213). -/
def execDecEnd (s : State) : Host.Outcome State Fault Refusal :=
  runCommand .decEnd s decEndBody

end Sys2Proof.Machine
end

