-- ==== Sys2Proof/Machine/Encrypt.lean ====
section
/-! DEFINITION. `ENC_START`, `ENC_FEED` and `ENC_END` (44_encrypt_pipeline.md R190, R192, R193). -/

namespace Sys2Proof.Machine

open Sys2Proof

/-- The pseudocode of R190. -/
def encStartBody (mt : MediaType) (sc : Bool) (p : Bytes) (s : State) : Result State := do
  let k ← derive p mt
  let s := macInit (loadKeys k s)
  let s := if sc then scInit s else s
  return { s with
    scEn := sc
    pend := [], consumed := 0, emitted := 0
    drained := false, finalized := false
    mode := .enc }

/-- `ENC_START` (R190). -/
def execEncStart (mt : MediaType) (sc : Bool) (p : Bytes) (s : State) : Host.Outcome State Fault Refusal :=
  runCommand .encStart s (encStartBody mt sc p)

/-- `n <- 16 * (len(buf) div 16)`, the bytes of all fully available blocks (R192). -/
def fullLen (buf : Bytes) : Nat := Config.blockLen * (buf.length / Config.blockLen)

/-- The encryption of whole blocks inside a pipeline: chain, then deliver (R192, R193). -/
def encBlocks (x : Bytes) (s : State) : Result State :=
  let r := cbcEncBlocks s.cipherKey s.chain x
  encEmit r.1 { s with chain := r.2 }

/-- `if n > 0`: the full blocks of the buffer are encrypted, and with none nothing happens (R192). -/
def encFullBlocks (buf : Bytes) (s : State) : Result State :=
  if 0 < fullLen buf then encBlocks (slice buf 0 (fullLen buf)) s else .ok s

/-- The pseudocode of R192. -/
def encFeedBody (p : Bytes) (s : State) : Result State := do
  let buf := s.pend ++ p
  let s ← encFullBlocks buf s
  let consumed ← toCounter (s.consumed.toNat + p.length)
  return { s with pend := buf.drop (fullLen buf), consumed := consumed }

/-- `ENC_FEED` (R192). -/
def execEncFeed (p : Bytes) (s : State) : Host.Outcome State Fault Refusal :=
  runCommand .encFeed s (encFeedBody p)

/-- The pseudocode of R193. -/
def encEndBody (s : State) : Result State := do
  let s ← encBlocks (pkcs7Pad s.pend) s
  let s ← scFinalizeIfEnabled s
  let t := macTag s
  let s := emitOut t (macClose s)
  let emitted ← toCounter (s.emitted.toNat + Config.tagLen)
  return endPipeline { s with emitted := emitted }

/-- `ENC_END` (R193). -/
def execEncEnd (s : State) : Host.Outcome State Fault Refusal :=
  runCommand .encEnd s encEndBody

end Sys2Proof.Machine
end

