-- ==== Sys2Proof/Machine/KeySchedule.lean ====
section
/-! DEFINITION. `KDF` and `KEYS_LOAD` (40_keyschedule.md R104, R105). -/

namespace Sys2Proof.Machine

open Sys2Proof

/-- The pseudocode of R104. -/
def kdfBody (mt : MediaType) (p : Bytes) (s : State) : Result State := do
  let k ← derive p mt
  return emitOut k.bytes (loadKeys k s)

/-- `KDF` (R104). -/
def execKdf (mt : MediaType) (p : Bytes) (s : State) : Host.Outcome State Fault Refusal :=
  runCommand .kdf s (kdfBody mt p)

/-- The pseudocode of R105. -/
def keysLoadBody (p : Bytes) (s : State) : Result State := do
  require (p.length == Config.keySetLen) .invalidKeyLength
  return loadKeys (keySetOf p) s

/-- `KEYS_LOAD` (R105). -/
def execKeysLoad (p : Bytes) (s : State) : Host.Outcome State Fault Refusal :=
  runCommand .keysLoad s (keysLoadBody p)

end Sys2Proof.Machine
end

