-- ==== Sys2Proof/Machine/Mac.lean ====
section
/-! DEFINITION. `MAC_NEW`, `MAC_UPDATE`, `MAC_FINAL` and `MAC_VERIFY` (42_mac.md R153 to R156). -/

namespace Sys2Proof.Machine

open Sys2Proof

/-- The pseudocode of R153. -/
def macNewBody (s : State) : Result State := do
  require s.keysValid .sequenceError
  return macInit s

/-- `MAC_NEW` (R153). -/
def execMacNew (s : State) : Host.Outcome State Fault Refusal :=
  runCommand .macNew s macNewBody

/-- The pseudocode of R154. -/
def macUpdateBody (p : Bytes) (s : State) : Result State := do
  requireLive s.macSt
  return macFeed p s

/-- `MAC_UPDATE` (R154). -/
def execMacUpdate (p : Bytes) (s : State) : Host.Outcome State Fault Refusal :=
  runCommand .macUpdate s (macUpdateBody p)

/-- The pseudocode of R155. -/
def macFinalBody (s : State) : Result State := do
  requireLive s.macSt
  return emitOut (macTag s) (macClose s)

/-- `MAC_FINAL` (R155). -/
def execMacFinal (s : State) : Host.Outcome State Fault Refusal :=
  runCommand .macFinal s macFinalBody

/-- The pseudocode of R156. -/
def macVerifyBody (p : Bytes) (s : State) : Result State := do
  requireLive s.macSt
  require (p.length == Config.tagLen) .invalidLength
  require (ctEq10 (macTag s) p) .macMismatch
  return macClose s

/-- `MAC_VERIFY` (R156). -/
def execMacVerify (p : Bytes) (s : State) : Host.Outcome State Fault Refusal :=
  runCommand .macVerify s (macVerifyBody p)

end Sys2Proof.Machine
end

