-- ==== Sys2Proof/Machine/Sidecar.lean ====
section
/-! DEFINITION. `SC_NEW`, `SC_FEED` and `SC_FINAL` (43_sidecar.md R174 to R176). -/

namespace Sys2Proof.Machine

open Sys2Proof

/-- The pseudocode of R174. -/
def scNewBody (s : State) : Result State := do
  require s.keysValid .sequenceError
  return scInit s

/-- `SC_NEW` (R174). -/
def execScNew (s : State) : Host.Outcome State Fault Refusal :=
  runCommand .scNew s scNewBody

/-- The pseudocode of R175. -/
def scFeedBody (p : Bytes) (s : State) : Result State := do
  requireLive s.scSt
  scFeed p s

/-- `SC_FEED` (R175). -/
def execScFeed (p : Bytes) (s : State) : Host.Outcome State Fault Refusal :=
  runCommand .scFeed s (scFeedBody p)

/-- The pseudocode of R176. -/
def scFinalBody (s : State) : Result State := do
  requireLive s.scSt
  scFinalize s

/-- `SC_FINAL` (R176). -/
def execScFinal (s : State) : Host.Outcome State Fault Refusal :=
  runCommand .scFinal s scFinalBody

end Sys2Proof.Machine
end

