-- ==== Sys2Proof/Machine/Dispatch.lean ====
section
/-! DEFINITION. One arm per command of the opcode map (30_encoding.md R83). -/

namespace Sys2Proof.Machine

open Sys2Proof

def exec (i : Instr) (s : State) : Host.Outcome State Fault Refusal :=
  match i with
  | .kdf mt p => Sys2Proof.Machine.execKdf mt p s
  | .keysLoad p => Sys2Proof.Machine.execKeysLoad p s
  | .cbcEnc f seed p => Sys2Proof.Machine.execCbcEnc f seed p s
  | .cbcDec f seed p => Sys2Proof.Machine.execCbcDec f seed p s
  | .macNew => Sys2Proof.Machine.execMacNew s
  | .macUpdate p => Sys2Proof.Machine.execMacUpdate p s
  | .macFinal => Sys2Proof.Machine.execMacFinal s
  | .macVerify p => Sys2Proof.Machine.execMacVerify p s
  | .scNew => Sys2Proof.Machine.execScNew s
  | .scFeed p => Sys2Proof.Machine.execScFeed p s
  | .scFinal => Sys2Proof.Machine.execScFinal s
  | .encStart mt sc p => Sys2Proof.Machine.execEncStart mt sc p s
  | .encFeed p => Sys2Proof.Machine.execEncFeed p s
  | .encEnd => Sys2Proof.Machine.execEncEnd s
  | .decStart mt p => Sys2Proof.Machine.execDecStart mt p s
  | .decFeed p => Sys2Proof.Machine.execDecFeed p s
  | .decEnd => Sys2Proof.Machine.execDecEnd s
  | .abort => Sys2Proof.Machine.execAbort s

end Sys2Proof.Machine
end

