-- ==== Sys2Proof/Machine/Flags.lean ====
section
/-! DEFINITION. The `STATUS` fields and the register map (10_state.md R38 to R41), with the codes of the enumerations
(R20, R240). -/

namespace Sys2Proof.Machine

open Sys2Proof

/-- `STATUS.MODE` (R39). -/
def Mode.code : Mode → BitVec 2
  | .idle => 0
  | .enc => 1
  | .dec => 2

/-- `STATUS.MAC_ST` and `STATUS.SC_ST` (R39). -/
def Lifecycle.code : Lifecycle → BitVec 2
  | .none => 0
  | .active => 1
  | .final => 2

/-- The error codes of R240. -/
def EngineError.code : EngineError → BitVec 4
  | .invalidKeyLength => 1
  | .unalignedInput => 2
  | .unalignedCiphertext => 3
  | .macMismatch => 4
  | .invalidPadding => 5
  | .invalidLength => 6
  | .useAfterFinalize => 7
  | .illegalCommand => 8
  | .sequenceError => 9
  | .spoolOverflow => 10

/-- The value of `ERR` (R240). -/
def errCode : Option EngineError → BitVec 4
  | none => 0
  | some e => e.code

/-- `STATUS.BUFLEN` (R39). -/
def bufLen (s : State) : Nat :=
  match s.mode with
  | .idle => 0
  | .enc => s.pend.length
  | .dec => s.tail.length

/-- `STATUS` (R39), most significant field first. -/
def status (s : State) : Word :=
  0#3 ++ BitVec.ofNat 5 (bufLen s) ++ s.errOpc ++ errCode s.err ++ 0#1 ++ BitVec.ofBool s.params.unitAccess ++
    BitVec.ofBool s.finalized ++ BitVec.ofBool s.drained ++ s.scSt.code ++ s.macSt.code ++ BitVec.ofBool s.scEn ++
    BitVec.ofBool s.keysValid ++ s.mode.code

/-- Bits [31:0] of a 64-bit value (R40). -/
def loHalf (c : Counter) : Word := c.extractLsb' 0 32

/-- Bits [63:32] of a 64-bit value (R40). -/
def hiHalf (c : Counter) : Word := c.extractLsb' 32 32

/-- The low 64 bits of the length of a stream or buffer (R38). -/
def lenCounter (bs : Bytes) : Counter := BitVec.ofNat 64 bs.length

/-- The register at a byte offset; every other offset reads 0 (R38, R41). -/
def readReg (off : Nat) (s : State) : Word :=
  match off with
  | 0x00 => status s
  | 0x04 => 0
  | 0x08 => loHalf s.consumed
  | 0x0C => hiHalf s.consumed
  | 0x10 => loHalf s.emitted
  | 0x14 => hiHalf s.emitted
  | 0x18 => loHalf s.scNext
  | 0x1C => hiHalf s.scNext
  | 0x20 => loHalf s.scEnd
  | 0x24 => hiHalf s.scEnd
  | 0x28 => loHalf s.scCount
  | 0x2C => hiHalf s.scCount
  | 0x30 => loHalf (lenCounter s.spool)
  | 0x34 => hiHalf (lenCounter s.spool)
  | 0x38 => loHalf (lenCounter s.out)
  | 0x3C => hiHalf (lenCounter s.out)
  | 0x40 => loHalf (lenCounter s.sco)
  | 0x44 => hiHalf (lenCounter s.sco)
  | _ => 0

end Sys2Proof.Machine
end

