-- ==== Sys2Proof/WellFormed.lean ====
section
/-! DEFINITION. Well-formed commands: the payload is one a transport can carry (30_encoding.md R80, 00_scope.md R9).
Every value of every other operand is legal (R82). -/

namespace Sys2Proof

/-- A payload of 0 to 2^32 − 1 bytes (R80). -/
def payloadWf (p : Bytes) : Bool := p.length < Config.payloadLimit

/-- A command the host can submit. -/
def Instr.wf : Instr → Bool
  | .kdf _ p => payloadWf p
  | .keysLoad p => payloadWf p
  | .cbcEnc _ _ p => payloadWf p
  | .cbcDec _ _ p => payloadWf p
  | .macNew => true
  | .macUpdate p => payloadWf p
  | .macFinal => true
  | .macVerify p => payloadWf p
  | .scNew => true
  | .scFeed p => payloadWf p
  | .scFinal => true
  | .encStart _ _ p => payloadWf p
  | .encFeed p => payloadWf p
  | .encEnd => true
  | .decStart _ p => payloadWf p
  | .decFeed p => payloadWf p
  | .decEnd => true
  | .abort => true

end Sys2Proof
end

