-- ==== Sys2Proof/Machine/Submit.lean ====
section
/-! DEFINITION. The host's transactions, each one atomic step of the engine (46_host_and_control.md R230, R232, R234;
10_state.md R41; 70_reset_and_hazards.md R270). -/

namespace Sys2Proof.Machine

open Sys2Proof

/-- `Submit(w, p)` (R87, R230): decode and run the command, or reject the word. A payload of 2^32 bytes or more is no
transaction of the transport (R80). -/
def submit (w : Word) (p : Bytes) (s : State) : Host.Outcome State Fault Refusal :=
  if payloadWf p then
    match decode w p with
    | .ok i => exec i s
    | .error _ => rejectWord w s
  else .fault .oversizedPayload

/-- One transaction of the host on the engine. A register write is ignored (R41). -/
def transact (t : Transaction) (s : State) : Host.Outcome State Fault Refusal :=
  match t with
  | .submit w p => submit w p s
  | .readReg off => .next (replyReg (readReg off s) s)
  | .writeReg _ _ => .next s
  | .drainOut n => .next (drainOut n s)
  | .drainSco n => .next (drainSco n s)
  | .reset => .next (resetState s)

end Sys2Proof.Machine
end

