-- ==== Sys2Proof/Machine/Step.lean ====
section
/-! DEFINITION. One step of the machine: the host's next transaction (00_scope.md R13, R15). -/

namespace Sys2Proof.Machine

open Sys2Proof

/-- One step. The engine steps only when the host makes a transaction; with none pending it is idle and nothing changes
(R15, R245, R252). -/
def step (s : State) : Host.Outcome State Fault Refusal :=
  match s.pending with
  | [] => .next s
  | t :: rest => transact t { s with pending := rest }

/-- The state whose next transaction submits the command word with the given bits and a payload of zeros (log 1). -/
def State.withFetchWord (s : State) (nbits w : Nat) : State :=
  let word := BitVec.ofNat 32 (w % 2 ^ nbits)
  { s with pending := .submit word (zeroPayload word) :: s.pending }

end Sys2Proof.Machine
end

