-- ==== Sys2Proof/Machine/Assembler.lean ====
section
/-! DEFINITION. The command-program syntax of 30_encoding.md R91, as a tree, with the transactions it stands for, and the
pseudo-instructions of R92. Labels and comments carry no meaning (R91), so the tree has none; the text of a line is read
in Machine/AsmText.lean (log 15). -/

namespace Sys2Proof.Machine

open Sys2Proof

/-- A suffix of `CBC_ENC` or `CBC_DEC` (R91). -/
inductive Suffix where
  | f
  | s
  deriving DecidableEq, Repr

/-- An atom of a payload (R91). -/
inductive Atom where
  | text (chars : List Char)
  | hex (digits : List (BitVec 4))
  | zeros (n : Nat)
  | fill (v : Byte) (n : Nat)
  | seq (n : Nat)
  | name (n : String)
  deriving DecidableEq, Repr

/-- An operand (R91): a media type, `SC`, or a payload, the atoms joined by `++`. -/
inductive AsmOperand where
  | media (mt : MediaType)
  | sidecar
  | payload (atoms : List Atom)
  deriving DecidableEq, Repr

/-- The names of the pseudo-instructions (R92). -/
inductive PseudoName where
  | encrypt
  | decrypt
  | macTag
  | sidecar
  | cbcSeal
  | cbcOpen
  deriving DecidableEq, Repr

/-- A line: a command, a pseudo-instruction or a payload binding (R91, R92). -/
inductive AsmLine where
  | command (op : Opcode) (suffixes : List Suffix) (operands : List AsmOperand)
  | pseudo (name : PseudoName) (operands : List AsmOperand)
  | bindName (name : String) (atoms : List Atom)
  deriving DecidableEq, Repr

/-- Why a line is not in the syntax of R91. -/
inductive AsmError where
  | nonAsciiText
  | oddHexDigits
  | unboundName
  | mediaRequired
  | mediaForbidden
  | sidecarForbidden
  | suffixForbidden
  | repeatedOperand
  | payloadNotLast
  | payloadRequired
  | wrongPseudoOperands
  deriving DecidableEq, Repr

/-- The payloads bound so far, the latest binding first. -/
abbrev AsmEnv := List (String × Bytes)

/-- Hex digits as bytes, first byte first; the digit count is even (R91). -/
def hexBytes : List (BitVec 4) → Except AsmError Bytes
  | [] => .ok []
  | [_] => .error .oddHexDigits
  | hi :: lo :: rest =>
    match hexBytes rest with
    | .ok bs => .ok ((hi ++ lo) :: bs)
    | .error e => .error e

/-- The bytes of an atom (R91). -/
def atomBytes (env : AsmEnv) (a : Atom) : Except AsmError Bytes :=
  match a with
  | .text cs => if cs.all (fun c => c.toNat < 128) then .ok (cs.map fun c => BitVec.ofNat 8 c.toNat)
      else .error .nonAsciiText
  | .hex ds => hexBytes ds
  | .zeros n => .ok (List.replicate n 0)
  | .fill v n => .ok (List.replicate n v)
  | .seq n => .ok ((List.range n).map fun i => BitVec.ofNat 8 (i % 256))
  | .name n =>
    match env.lookup n with
    | some bs => .ok bs
    | none => .error .unboundName

/-- The bytes of a payload, its atoms joined (R91). -/
def payloadBytes (env : AsmEnv) : List Atom → Except AsmError Bytes
  | [] => .ok []
  | a :: rest => do
    let x ← atomBytes env a
    let y ← payloadBytes env rest
    return x ++ y

/-- `MEDIA` is required for these commands and forbidden elsewhere (R91). -/
def takesMedia (op : Opcode) : Bool := op == .kdf || op == .encStart || op == .decStart

/-- Suffixes are for these commands only (R91). -/
def takesSuffix (op : Opcode) : Bool := op == .cbcEnc || op == .cbcDec

/-- The media types among the operands. -/
def mediaOperands (os : List AsmOperand) : List MediaType :=
  os.filterMap fun o => match o with
    | .media mt => some mt
    | _ => none

/-- The payloads among the operands. -/
def payloadOperands (os : List AsmOperand) : List (List Atom) :=
  os.filterMap fun o => match o with
    | .payload as => some as
    | _ => none

/-- The payload is the last operand (R91). -/
def payloadIsLast (os : List AsmOperand) : Bool :=
  os.dropLast.all fun o => match o with
    | .payload _ => false
    | _ => true

/-- The media operand of a command, if it takes one (R91). -/
def mediaField (op : Opcode) (os : List AsmOperand) : Except AsmError (BitVec 2) :=
  match takesMedia op, mediaOperands os with
  | true, [mt] => .ok mt.code
  | true, [] => .error .mediaRequired
  | false, [] => .ok 0
  | false, _ => .error .mediaForbidden
  | true, _ => .error .repeatedOperand

/-- The payload of a command: required for the class `exactly n`, empty when absent otherwise (R91). -/
def payloadField (env : AsmEnv) (op : Opcode) (os : List AsmOperand) : Except AsmError Bytes :=
  match payloadOperands os, op.payloadClass with
  | [as], _ => payloadBytes env as
  | [], .exactly _ => .error .payloadRequired
  | [], _ => .ok []
  | _, _ => .error .repeatedOperand

/-- The transaction a command line stands for (R91). -/
def assemble (env : AsmEnv) (op : Opcode) (suffixes : List Suffix) (os : List AsmOperand) :
    Except AsmError (Word × Bytes) :=
  if ¬ payloadIsLast os then .error .payloadNotLast
  else if os.contains .sidecar ∧ op ≠ .encStart then .error .sidecarForbidden
  else if 1 < os.count .sidecar then .error .repeatedOperand
  else if suffixes ≠ [] ∧ ¬ takesSuffix op then .error .suffixForbidden
  else do
    let mt ← mediaField op os
    let p ← payloadField env op os
    return (commandWord (os.contains .sidecar) (suffixes.contains .s) (suffixes.contains .f) mt op, p)

/-- The pseudo-instructions of R92. -/
inductive Pseudo where
  | encrypt (mt : MediaType) (sc : Bool) (key data : Bytes)
  | decrypt (mt : MediaType) (key data : Bytes)
  | macTag (data : Bytes)
  | sidecar (data : Bytes)
  | cbcSeal (data : Bytes)
  | cbcOpen (data : Bytes)
  deriving DecidableEq, Repr

/-- The expansions of R92, in the order shown there. -/
def expandPseudo : Pseudo → List Instr
  | .encrypt mt sc key data => [.encStart mt sc key, .encFeed data, .encEnd]
  | .decrypt mt key data => [.decStart mt key, .decFeed data, .decEnd]
  | .macTag data => [.macNew, .macUpdate data, .macFinal]
  | .sidecar data => [.scNew, .scFeed data, .scFinal]
  | .cbcSeal data => [.cbcEnc true true data]
  | .cbcOpen data => [.cbcDec true true data]

/-- The pseudo-instruction that a line of R92 spells. -/
def pseudoOf (env : AsmEnv) (name : PseudoName) (os : List AsmOperand) : Except AsmError Pseudo :=
  match name, os with
  | .encrypt, [.media mt, .payload key, .payload data] => do
    return .encrypt mt false (← payloadBytes env key) (← payloadBytes env data)
  | .encrypt, [.media mt, .sidecar, .payload key, .payload data] => do
    return .encrypt mt true (← payloadBytes env key) (← payloadBytes env data)
  | .decrypt, [.media mt, .payload key, .payload data] => do
    return .decrypt mt (← payloadBytes env key) (← payloadBytes env data)
  | .macTag, [.payload data] => do return .macTag (← payloadBytes env data)
  | .sidecar, [.payload data] => do return .sidecar (← payloadBytes env data)
  | .cbcSeal, [.payload data] => do return .cbcSeal (← payloadBytes env data)
  | .cbcOpen, [.payload data] => do return .cbcOpen (← payloadBytes env data)
  | _, _ => .error .wrongPseudoOperands

/-- The transactions of a program, a straight-line sequence (R91, R92, R233). -/
def assembleAll (env : AsmEnv) : List AsmLine → Except AsmError (List (Word × Bytes))
  | [] => .ok []
  | .command op suffixes os :: rest => do
    let t ← assemble env op suffixes os
    let ts ← assembleAll env rest
    return t :: ts
  | .pseudo name os :: rest => do
    let p ← pseudoOf env name os
    let ts ← assembleAll env rest
    return (expandPseudo p).map encode ++ ts
  | .bindName n atoms :: rest => do
    let bs ← payloadBytes env atoms
    assembleAll ((n, bs) :: env) rest

end Sys2Proof.Machine
end

