-- ==== Sys2Proof/Safety.lean ====
section
/-! DEFINITION. The terms the claims use: when a command is accepted, runs of commands, the invariants of 10_state.md R37,
what the host can see (R238), the closed forms of the sidecar (R177), and the named assumptions on the primitives that
40_keyschedule.md R107 and 42_mac.md R158 ask a model to state and not to derive. -/

namespace Sys2Proof.Machine

open Sys2Proof

/-- The engine is not in the error state, has the command, and is in a mode that allows it (R87): the command's own
rule runs. -/
abbrev Accepts (op : Opcode) (s : State) : Prop :=
  s.err = none ∧ (op.isUnit = true → s.params.unitAccess = true) ∧ modeLegal op s.mode = true

/-- Commands submitted one after the other (R71). -/
def execAll : List Instr → State → Host.Outcome State Fault Refusal
  | [], s => .next s
  | i :: is, s =>
    match exec i s with
    | .next s' => execAll is s'
    | .fault r => .fault r
    | .refused r => .refused r

/-- The commands that encrypt a plaintext fed in the given parts (R195). -/
def encryptRun (mt : MediaType) (sc : Bool) (key : Bytes) (parts : List Bytes) : List Instr :=
  .encStart mt sc key :: (parts.map .encFeed ++ [.encEnd])

/-- The commands that decrypt an input fed in the given parts (R216). -/
def decryptRun (mt : MediaType) (key : Bytes) (parts : List Bytes) : List Instr :=
  .decStart mt key :: (parts.map .decFeed ++ [.decEnd])

/-! ### Keys and output -/

/-- `iv ++ ck ++ mk` of the key registers (R104, R105). -/
def keyBytes (s : State) : Bytes := bytesOf s.iv ++ bytesOf s.cipherKey ++ bytesOf s.macKey

/-- `s` with the keys of `t` loaded: the chain state is the new IV and every MAC and sidecar context is gone (R103). -/
def rekeyed (s t : State) : State :=
  { s with
    iv := t.iv, cipherKey := t.cipherKey, macKey := t.macKey, keysValid := true, chain := t.iv
    macSt := .none, macMsg := []
    scSt := .none, scBuf := [], scNext := 0, scEnd := 0, scCount := 0, scTags := [] }

/-- `s` after a pipeline that completed (R194). -/
def pipelineClosed (s : State) : State :=
  { s with
    mode := .idle, keysValid := false
    iv := Vector.replicate 16 0, cipherKey := Vector.replicate 32 0, macKey := Vector.replicate 32 0
    chain := Vector.replicate 16 0
    macSt := .none, macMsg := [], scSt := .none, scBuf := [], scTags := [], scEn := false
    pend := [], tail := [], spool := [], drained := true, finalized := true }

/-! ### The sidecar's closed forms (R177) -/

/-- The number of full windows in the first `n` bytes of a buffer that starts at a window start: window `i` is full
when `i*65536 + 65552 ≤ n`. -/
def fullWindows (n : Nat) : Nat := (n - 16) / 65536

/-- `N(L)` (R177). -/
def windowCount (n : Nat) : Nat := if n = 0 then 0 else 1 + max 0 (n - 16) / 65536

/-- `window_tag(i)` (R177). -/
def windowTag (mk : Key) (c : Bytes) (i : Nat) : Bytes :=
  tag10 mk (slice c (i * 65536) (min c.length (i * 65536 + 65552)))

/-- `window_tag(0) ++ … ++ window_tag(n - 1)` (R177). -/
def windowTags (mk : Key) (c : Bytes) (n : Nat) : Bytes := ((List.range n).map (windowTag mk c)).flatten

/-- `sidecar(C)` (R177). -/
def sidecarOf (mk : Key) (c : Bytes) : Bytes := windowTags mk c (windowCount c.length)

/-- The sidecar context after feeding `c`, in closed form: of the bytes buffered and fed, every full window is tagged and
dropped but for its last 16 bytes (R171). -/
def sidecarFed (c : Bytes) (s : State) : State :=
  let buf := s.scBuf ++ c
  let n := fullWindows buf.length
  { s with
    scBuf := buf.drop (65536 * n)
    scTags := s.scTags ++ windowTags s.macKey buf n
    scCount := BitVec.ofNat 64 (s.scCount.toNat + n)
    scNext := BitVec.ofNat 64 (s.scNext.toNat + 65536 * n)
    scEnd := BitVec.ofNat 64 (s.scEnd.toNat + c.length) }

/-- The sidecar context after its trailing window, if any, is tagged too, with every tag released to `SCO` (R172, R173). -/
def sidecarReleased (s : State) : State :=
  { s with
    sco := s.sco ++ (s.scTags ++ if s.scNext.toNat < s.scEnd.toNat then tag10 s.macKey s.scBuf else [])
    scTags := [], scSt := .final
    scBuf := if s.scNext.toNat < s.scEnd.toNat then [] else s.scBuf
    scCount := if s.scNext.toNat < s.scEnd.toNat then BitVec.ofNat 64 (s.scCount.toNat + 1) else s.scCount }

/-- `s` after ciphertext `y` is delivered to `OUT`, to the MAC and, if the pipeline has one, to the sidecar (R191). -/
def delivered (y : Bytes) (s : State) : State :=
  { s with
    out := s.out ++ y, macMsg := s.macMsg ++ y, emitted := BitVec.ofNat 64 (s.emitted.toNat + y.length)
    scBuf := if s.scEn then (sidecarFed y s).scBuf else s.scBuf
    scTags := if s.scEn then (sidecarFed y s).scTags else s.scTags
    scCount := if s.scEn then (sidecarFed y s).scCount else s.scCount
    scNext := if s.scEn then (sidecarFed y s).scNext else s.scNext
    scEnd := if s.scEn then (sidecarFed y s).scEnd else s.scEnd }

/-- `s` after the pipeline's sidecar, if it has one, is finalized (R193). -/
def released (s : State) : State :=
  { s with
    sco := if s.scEn then (sidecarReleased s).sco else s.sco
    scTags := if s.scEn then (sidecarReleased s).scTags else s.scTags
    scSt := if s.scEn then (sidecarReleased s).scSt else s.scSt
    scBuf := if s.scEn then (sidecarReleased s).scBuf else s.scBuf
    scCount := if s.scEn then (sidecarReleased s).scCount else s.scCount }

/-- No counter of the sidecar passes 2^64 − 1 when `c` is fed (R9). -/
abbrev SidecarCountersFit (c : Bytes) (s : State) : Prop :=
  s.scEnd.toNat + c.length < 2 ^ 64 ∧ s.scCount.toNat + fullWindows (s.scBuf.length + c.length) < 2 ^ 64 ∧
    s.scNext.toNat + 65536 * fullWindows (s.scBuf.length + c.length) < 2 ^ 64

/-- Some counter of the sidecar would pass 2^64 − 1 when `n` bytes are fed (R9, R171). -/
abbrev SidecarOverflows (n : Nat) (s : State) : Prop :=
  2 ^ 64 ≤ s.scEnd.toNat + n ∨ 2 ^ 64 ≤ s.scCount.toNat + fullWindows (s.scBuf.length + n) ∨
    2 ^ 64 ≤ s.scNext.toNat + 65536 * fullWindows (s.scBuf.length + n)

/-! ### Invariants (R37) -/

/-- What holds after every transaction (R24, R30 to R33, R37, R211). -/
structure State.Inv (s : State) : Prop where
  pend_short : s.pend.length ≤ 15
  pend_only_enc : s.mode ≠ .enc → s.pend = []
  tail_short : s.tail.length ≤ 10
  spool_only_dec : s.mode ≠ .dec → s.tail = [] ∧ s.spool = []
  spool_fits : spoolFits s.params.spoolCap s.spool.length = true
  enc_count : s.mode = .enc → s.consumed.toNat = s.emitted.toNat + s.pend.length
  dec_count : s.mode = .dec → s.consumed.toNat = s.spool.length + s.tail.length
  dec_tail : s.mode = .dec → s.tail.length = min s.consumed.toNat 10
  dec_silent : s.mode = .dec → s.emitted = 0
  enc_mac : s.mode = .enc → s.macSt = .active
  dec_mac : s.mode = .dec → s.macSt = .active ∧ s.macMsg = bytesOf s.iv ++ s.spool
  mac_seeded : s.macSt ≠ .none → s.macMsg.take 16 = bytesOf s.iv ∧ s.keysValid = true
  sc_active : s.scSt = .active → s.scNext.toNat % 65536 = 0 ∧ s.scEnd.toNat = s.scNext.toNat + s.scBuf.length ∧
    s.scBuf.length < 65552 ∧ s.scTags.length = 10 * s.scCount.toNat
  sc_final : s.scSt = .final → s.scTags = []
  sc_enabled : s.scEn = true → s.mode = .enc ∧ s.scSt = .active
  busy_keyed : s.mode ≠ .idle → s.keysValid = true
  unkeyed_zero : s.keysValid = false →
    s.iv = zeros 16 ∧ s.cipherKey = zeros 32 ∧ s.macKey = zeros 32 ∧ s.chain = zeros 16

/-! ### What the host can see (R42, R238) -/

/-- Two states agree on everything the register map is made of (R38, R39): no key, no chain value, no byte of a buffer
or stream stands here, only flags, counters and lengths. -/
structure SameRegisterView (s t : State) : Prop where
  unitAccess : s.params.unitAccess = t.params.unitAccess
  mode : s.mode = t.mode
  err : s.err = t.err
  errOpc : s.errOpc = t.errOpc
  keysValid : s.keysValid = t.keysValid
  macSt : s.macSt = t.macSt
  scSt : s.scSt = t.scSt
  scEn : s.scEn = t.scEn
  drained : s.drained = t.drained
  finalized : s.finalized = t.finalized
  consumed : s.consumed = t.consumed
  emitted : s.emitted = t.emitted
  scNext : s.scNext = t.scNext
  scEnd : s.scEnd = t.scEnd
  scCount : s.scCount = t.scCount
  pend : s.pend.length = t.pend.length
  tail : s.tail.length = t.tail.length
  spool : s.spool.length = t.spool.length
  out : s.out.length = t.out.length
  sco : s.sco.length = t.sco.length

/-! ### The errors of each command (R244) -/

/-- The errors of a command's own rule (R244), after decode. -/
def ownErrors : Opcode → List EngineError
  | .kdf => [.invalidKeyLength]
  | .keysLoad => [.invalidKeyLength]
  | .cbcEnc => [.sequenceError, .unalignedInput]
  | .cbcDec => [.sequenceError, .unalignedInput, .invalidPadding]
  | .macNew => [.sequenceError]
  | .macUpdate => [.sequenceError, .useAfterFinalize]
  | .macFinal => [.sequenceError, .useAfterFinalize]
  | .macVerify => [.sequenceError, .useAfterFinalize, .invalidLength, .macMismatch]
  | .scNew => [.sequenceError]
  | .scFeed => [.sequenceError, .useAfterFinalize]
  | .scFinal => [.sequenceError, .useAfterFinalize]
  | .encStart => [.invalidKeyLength]
  | .encFeed => []
  | .encEnd => []
  | .decStart => [.invalidKeyLength]
  | .decFeed => [.spoolOverflow]
  | .decEnd => [.invalidLength, .macMismatch, .unalignedCiphertext, .invalidPadding]
  | .abort => []

/-! ### Named assumptions on the primitives (not derived, R107, R158) -/

/-- Context separation for a secret: different media types derive different key sets from it. It is no law of the model
(R107); a claim that needs it takes it as a hypothesis. -/
def ContextsSeparated (secret : Bytes) : Prop :=
  ∀ a b : MediaType, derivedKeys secret a = derivedKeys secret b → a = b

/-- Two messages have different tags under a key. That a changed ciphertext has another tag is no law of the model
(R158, I9); a claim that a ciphertext change is detected takes it as a hypothesis. -/
def TagsDiffer (k : Key) (m m' : Bytes) : Prop := tag10 k m ≠ tag10 k m'

end Sys2Proof.Machine
end

