-- ==== Sys2Proof/Certificates/Slice0/Obligations.lean ====
section
/-! DEFINITION. The statements about the engine, one definition each. A docstring names the rule a statement
formalises. -/

open Sys2Proof Sys2Proof.Machine

/-! ### Encoding -/

/-- R81, R83: the decoder reads every command back from its word and payload, with every operand at every value. -/
def Obligations.DecodeInvertsEncode : Prop :=
  ∀ i : Instr, decode (encode i).1 (encode i).2 = .ok i

/-- R81, R84, R85: a word and payload that decode to a command are that command's own, but for the payload of `ABORT`,
which is discarded unread. -/
def Obligations.DecodedWordIsTheEncoding : Prop :=
  ∀ (w : Word) (p : Bytes) (i : Instr), decode w p = .ok i → (encode i).1 = w ∧ (i ≠ .abort → (encode i).2 = p)

/-- R83, R85: a word spells a command of an opcode exactly when `(w & mask) = match`, and a command of class `none` has
no payload. -/
def Obligations.MaskAndMatchDecideDecoding : Prop :=
  ∀ (w : Word) (p : Bytes) (op : Opcode),
    (∃ i, decode w p = .ok i ∧ i.opcode = op) ↔
      (w &&& op.mask = op.matchBits ∧ (op.payloadClass = .none → p = []))

/-- R93: the encoding examples, the two illegal words among them. -/
def Obligations.EncodingExamplesDecode : Prop :=
  decode 0x00001240 (List.replicate 32 0) = .ok (.encStart .audio true (List.replicate 32 0)) ∧
  decode 0x00000040 (List.replicate 32 0) = .ok (.encStart .image false (List.replicate 32 0)) ∧
  decode 0x00000350 [1] = .ok (.decStart .document [1]) ∧
  decode 0x00000101 [1] = .ok (.kdf .video [1]) ∧
  decode 0x00000C10 [] = .ok (.cbcEnc true true []) ∧
  decode 0x00000811 [1] = .ok (.cbcDec false true [1]) ∧
  decode 0x000000FF [] = .ok .abort ∧
  decode 0x00000410 [] = .ok (.cbcEnc true false []) ∧
  decode 0x00000510 [] = .error .disallowedBits ∧
  decode 0x00002040 [] = .error .disallowedBits

/-! ### Steps -/

/-- R87, R230: when the host's next transaction submits a word and payload that decode to a command, the step is that
command's meaning in the state whose pending transactions are the rest. The queue of pending transactions is the model's
(DESIGN CHOICE, log 1). -/
def Obligations.StepRunsTheDecodedCommand : Prop :=
  ∀ (s : State) (w : Word) (p : Bytes) (rest : List Transaction) (i : Instr),
    s.pending = .submit w p :: rest → payloadWf p = true → decode w p = .ok i →
      step s = exec i { s with pending := rest }

/-- R84, R85, R89: a word and payload that decode to no command raise `IllegalCommand` with the word's low byte in
`ERR_OPC`, outside the error state; inside it they have no effect (R242). The queue of pending transactions is the
model's (DESIGN CHOICE, log 1). -/
def Obligations.UndecodableWordsAreIllegal : Prop :=
  ∀ (s : State) (w : Word) (p : Bytes) (rest : List Transaction) (e : DecodeError),
    s.pending = .submit w p :: rest → payloadWf p = true → decode w p = .error e →
      (s.err = none → step s =
        .next { s with err := some .illegalCommand, errOpc := w.extractLsb' 0 8, pending := rest }) ∧
      (s.err ≠ none → step s = .next { s with pending := rest })

/-- R242: in the error state every submitted word other than exactly `0x000000FF` has no effect at all, and that word
resets the engine, whatever its payload. The queue of pending transactions is the model's (DESIGN CHOICE, log 1), and
so is that the parameters stand in the state and survive (log 2). -/
def Obligations.ErrorStateObeysOnlyAbort : Prop :=
  ∀ (s : State) (w : Word) (p : Bytes) (rest : List Transaction),
    s.pending = .submit w p :: rest → payloadWf p = true → s.err ≠ none →
      step s = .next (if w = 0x000000FF then State.resetWith s.params rest s.replies
        else { s with pending := rest })

/-- R41, R232, R234: the host's other transactions, in every state: a register read returns the register and changes
nothing, a register write is ignored, and a drain removes and returns the first bytes of its stream. The queue of
pending transactions and the list of replies are the model's (DESIGN CHOICE, log 1). -/
def Obligations.HostTransactionsComplete : Prop :=
  ∀ (s : State) (rest : List Transaction),
    (∀ off, s.pending = .readReg off :: rest →
      step s = .next { s with pending := rest, replies := s.replies ++ [.reg (readReg off s)] }) ∧
    (∀ off v, s.pending = .writeReg off v :: rest → step s = .next { s with pending := rest }) ∧
    (∀ n, s.pending = .drainOut n :: rest →
      step s = .next { s with pending := rest, out := s.out.drop n, replies := s.replies ++ [.outBytes (s.out.take n)] }) ∧
    (∀ n, s.pending = .drainSco n :: rest →
      step s = .next { s with pending := rest, sco := s.sco.drop n, replies := s.replies ++ [.scoBytes (s.sco.take n)] })

/-! ### Reset, ABORT and the register map -/

/-- R271: what reset leaves: `STATUS` reads `0x00000400` when `UNIT_ACCESS` is true and `0x00000000` when it is false, and
every other register reads 0. That the parameters and the host's side stand in the state is the model's (DESIGN CHOICE,
log 1, log 2). -/
def Obligations.RegistersAfterReset : Prop :=
  ∀ (ps : Params) (ts : List Transaction) (rs : List Reply) (off : Nat),
    readReg off (State.resetWith ps ts rs) = if off = 0 ∧ ps.unitAccess = true then 0x00000400 else 0

/-- R231, R270: `ABORT` and a platform reset have exactly the same effect in every state, the error state and a running
pipeline included: every element of the record takes its reset value. What they leave as it is, the parameters and the
host's side, is no state of the spec's (DESIGN CHOICE, log 1, log 2). -/
def Obligations.AbortAndResetRestoreTheResetState : Prop :=
  (∀ s : State, exec .abort s = .next (State.resetWith s.params s.pending s.replies)) ∧
  (∀ (s : State) (p : Bytes) (rest : List Transaction), payloadWf p = true →
    step { s with pending := .submit 0x000000FF p :: rest } = step { s with pending := .reset :: rest } ∧
    step { s with pending := .reset :: rest } = .next (State.resetWith s.params rest s.replies))

/-- R39: the fields of `STATUS`, with the codes of R240, and their values after reset; no host write changes them. -/
def Obligations.StatusFieldsAreWhereTheMapSays : Prop :=
  (∀ s : State,
    (status s).extractLsb' 0 2 = (match s.mode with | .idle => 0 | .enc => 1 | .dec => 2) ∧
    (status s).getLsbD 2 = s.keysValid ∧
    (status s).getLsbD 3 = s.scEn ∧
    (status s).extractLsb' 4 2 = (match s.macSt with | .none => 0 | .active => 1 | .final => 2) ∧
    (status s).extractLsb' 6 2 = (match s.scSt with | .none => 0 | .active => 1 | .final => 2) ∧
    (status s).getLsbD 8 = s.drained ∧
    (status s).getLsbD 9 = s.finalized ∧
    (status s).getLsbD 10 = s.params.unitAccess ∧
    (status s).getLsbD 11 = false ∧
    (status s).extractLsb' 12 4 =
      (match s.err with
        | none => 0 | some .invalidKeyLength => 1 | some .unalignedInput => 2 | some .unalignedCiphertext => 3
        | some .macMismatch => 4 | some .invalidPadding => 5 | some .invalidLength => 6 | some .useAfterFinalize => 7
        | some .illegalCommand => 8 | some .sequenceError => 9 | some .spoolOverflow => 10) ∧
    (status s).extractLsb' 16 8 = s.errOpc ∧
    (status s).extractLsb' 24 5 =
      (match s.mode with | .idle => 0 | .enc => BitVec.ofNat 5 s.pend.length | .dec => BitVec.ofNat 5 s.tail.length) ∧
    (status s).extractLsb' 29 3 = 0) ∧
  (∀ (ps : Params) (ts : List Transaction) (rs : List Reply),
    status (State.resetWith ps ts rs) = if ps.unitAccess then 0x00000400 else 0) ∧
  (∀ (off : Nat) (v : Word) (s : State), transact (.writeReg off v) s = .next s)

/-- R38, R40, R41: the register map: each counter is the high half at the upper offset over the low half at the lower
one, and every offset that is no register reads 0. -/
def Obligations.RegisterMapReads : Prop :=
  ∀ s : State,
    readReg 0x00 s = status s ∧
    readReg 0x0C s ++ readReg 0x08 s = s.consumed ∧
    readReg 0x14 s ++ readReg 0x10 s = s.emitted ∧
    readReg 0x1C s ++ readReg 0x18 s = s.scNext ∧
    readReg 0x24 s ++ readReg 0x20 s = s.scEnd ∧
    readReg 0x2C s ++ readReg 0x28 s = s.scCount ∧
    (readReg 0x34 s ++ readReg 0x30 s).toNat = s.spool.length % 2 ^ 64 ∧
    (readReg 0x3C s ++ readReg 0x38 s).toNat = s.out.length % 2 ^ 64 ∧
    (readReg 0x44 s ++ readReg 0x40 s).toNat = s.sco.length % 2 ^ 64 ∧
    readReg 0x04 s = 0 ∧
    (∀ off, off % 4 ≠ 0 ∨ 0x44 < off → readReg off s = 0)

/-- R42: no register exposes a key, a chain value or a byte of a buffer: two states that differ in nothing but those
read the same at every offset. -/
def Obligations.RegistersExposeNoSecret : Prop :=
  ∀ (s t : State), SameRegisterView s t → ∀ off, readReg off s = readReg off t

/-! ### Errors -/

/-- R241: errors are precise: a submission outside the error state that ends with an error latched has changed `ERR` and
`ERR_OPC`, the latter to the word's low byte, and nothing else. -/
def Obligations.ErrorsArePrecise : Prop :=
  ∀ (w : Word) (p : Bytes) (s t : State) (e : EngineError), s.err = none → submit w p s = .next t → t.err = some e →
    t = { s with err := some e, errOpc := w.extractLsb' 0 8 }

/-- R23, R247: the first error latches: in the error state a step keeps `ERR` and `ERR_OPC`, unless it is `ABORT` or a
reset, which clears them. The queue of pending transactions is the model's (DESIGN CHOICE, log 1). -/
def Obligations.TheFirstErrorLatches : Prop :=
  ∀ (s t : State) (e : EngineError), s.err = some e → step s = .next t →
    (t.err = some e ∧ t.errOpc = s.errOpc) ∨
    (t = State.resetWith s.params t.pending s.replies ∧
      ((∃ p, s.pending = .submit 0x000000FF p :: t.pending) ∨ s.pending = .reset :: t.pending))

/-- R244: the errors each command can raise: its own, the mode's `SequenceError`, and `IllegalCommand` where unit access
is absent. -/
def Obligations.CommandsRaiseOnlyTheirErrors : Prop :=
  ∀ (i : Instr) (s t : State) (e : EngineError), s.err = none → exec i s = .next t → t.err = some e →
    e ∈ ownErrors i.opcode ∨ (e = .sequenceError ∧ modeLegal i.opcode s.mode = false) ∨
      (e = .illegalCommand ∧ i.opcode.isUnit = true ∧ s.params.unitAccess = false)

/-- R86, R88, R243: the checks of the engine come before the command's own, `UNIT_ACCESS` before the mode; which commands
are unit commands, and the modes that allow a command. -/
def Obligations.AccessThenModeAreCheckedFirst : Prop :=
  (∀ (i : Instr) (s : State), s.err = none →
    (i.opcode.isUnit = true → s.params.unitAccess = false →
      exec i s = .next { s with err := some .illegalCommand, errOpc := i.opcode.code }) ∧
    ((i.opcode.isUnit = true → s.params.unitAccess = true) → modeLegal i.opcode s.mode = false →
      exec i s = .next { s with err := some .sequenceError, errOpc := i.opcode.code })) ∧
  (∀ op : Opcode, op.isUnit = true ↔ op ∈ [.keysLoad, .cbcEnc, .cbcDec, .macNew, .macUpdate, .macFinal, .macVerify,
    .scNew, .scFeed, .scFinal]) ∧
  (∀ op, modeLegal op .idle = true ↔ op ≠ .encFeed ∧ op ≠ .encEnd ∧ op ≠ .decFeed ∧ op ≠ .decEnd) ∧
  (∀ op, modeLegal op .enc = true ↔ op = .encFeed ∨ op = .encEnd ∨ op = .abort) ∧
  (∀ op, modeLegal op .dec = true ↔ op = .decFeed ∨ op = .decEnd ∨ op = .abort)

/-- R104, R105, R108, R190, R210: key material of the wrong length raises `InvalidKeyLength` and changes nothing else. -/
def Obligations.WrongKeyLengthIsRaised : Prop :=
  ∀ (mt : MediaType) (sc : Bool) (p : Bytes) (s : State),
    (Accepts .kdf s → p.length ≠ 32 →
      exec (.kdf mt p) s = .next { s with err := some .invalidKeyLength, errOpc := 0x01 }) ∧
    (Accepts .keysLoad s → p.length ≠ 80 →
      exec (.keysLoad p) s = .next { s with err := some .invalidKeyLength, errOpc := 0x02 }) ∧
    (Accepts .encStart s → p.length ≠ 32 →
      exec (.encStart mt sc p) s = .next { s with err := some .invalidKeyLength, errOpc := 0x40 }) ∧
    (Accepts .decStart s → p.length ≠ 32 →
      exec (.decStart mt p) s = .next { s with err := some .invalidKeyLength, errOpc := 0x50 })

/-- R125, R126, R153, R174: the unit commands that need keys raise `SequenceError` without them, whatever their payload. -/
def Obligations.MissingKeysAreASequenceError : Prop :=
  ∀ (i : Instr) (s : State), i.opcode ∈ [.cbcEnc, .cbcDec, .macNew, .scNew] → Accepts i.opcode s →
    s.keysValid = false → exec i s = .next { s with err := some .sequenceError, errOpc := i.opcode.code }

/-- R154, R155, R156, R175, R176: the commands of a context raise `SequenceError` without one and `UseAfterFinalize` after
it is finalized. -/
def Obligations.ContextLifecycleErrors : Prop :=
  ∀ (i : Instr) (s : State), Accepts i.opcode s →
    (i.opcode ∈ [.macUpdate, .macFinal, .macVerify] →
      (s.macSt = .none → exec i s = .next { s with err := some .sequenceError, errOpc := i.opcode.code }) ∧
      (s.macSt = .final → exec i s = .next { s with err := some .useAfterFinalize, errOpc := i.opcode.code })) ∧
    (i.opcode ∈ [.scFeed, .scFinal] →
      (s.scSt = .none → exec i s = .next { s with err := some .sequenceError, errOpc := i.opcode.code }) ∧
      (s.scSt = .final → exec i s = .next { s with err := some .useAfterFinalize, errOpc := i.opcode.code }))

/-- R9: a command that would push any 64-bit counter past 2^64 − 1 is refused, once its own checks pass. Clause by clause,
every command that adds to a counter and every counter it adds to: `SC_FEED` (`SC_END`, `SC_COUNT`, `SC_NEXT`); `SC_FINAL`
(`SC_COUNT`, for a trailing window); `ENC_FEED` (`CONSUMED`, `EMITTED`, and with full blocks and a sidecar its three
counters); `ENC_END` (`EMITTED` by the last blocks and the trailer, and with a sidecar its three counters, `SC_COUNT` for the
trailing window too); `DEC_FEED` (`CONSUMED`); `DEC_END` (`EMITTED`). Only these six commands are ever refused, and every
refusal has this name. That it ends in a refusal of the model, with no next state, is the model's reading of "refused" (DEDUCED, log 8). -/
def Obligations.CounterOverflowIsRefused : Prop :=
  (∀ (p : Bytes) (s : State), Accepts .scFeed s → s.scSt = .active → SidecarOverflows p.length s →
    exec (.scFeed p) s = .refused .counterOverflow) ∧
  (∀ s : State, Accepts .scFinal s → s.scSt = .active → s.scNext.toNat < s.scEnd.toNat → 2 ^ 64 ≤ s.scCount.toNat + 1 →
    exec .scFinal s = .refused .counterOverflow) ∧
  (∀ (p : Bytes) (s : State), Accepts .encFeed s →
    let n := 16 * ((s.pend ++ p).length / 16)
    (2 ^ 64 ≤ s.consumed.toNat + p.length ∨ 2 ^ 64 ≤ s.emitted.toNat + n ∨
      (0 < n ∧ s.scEn = true ∧ SidecarOverflows n s)) →
    exec (.encFeed p) s = .refused .counterOverflow) ∧
  (∀ s : State, Accepts .encEnd s →
    let n := 16 * (s.pend.length / 16 + 1)
    let w := fullWindows (s.scBuf.length + n)
    (2 ^ 64 ≤ s.emitted.toNat + n + 10 ∨
      (s.scEn = true ∧ (SidecarOverflows n s ∨
        (s.scNext.toNat + 65536 * w < s.scEnd.toNat + n ∧ 2 ^ 64 ≤ s.scCount.toNat + w + 1)))) →
    exec .encEnd s = .refused .counterOverflow) ∧
  (∀ (p : Bytes) (s : State), Accepts .decFeed s →
    spoolFits s.params.spoolCap (s.spool.length + (s.tail.length + p.length - 10)) = true →
    2 ^ 64 ≤ s.consumed.toNat + p.length → exec (.decFeed p) s = .refused .counterOverflow) ∧
  (∀ (s : State) (p : Bytes), Accepts .decEnd s → 10 ≤ s.consumed.toNat → s.tail = tag10 s.macKey s.macMsg →
    0 < s.spool.length → s.spool.length % 16 = 0 →
    pkcs7Unpad (cbcDecBlocks s.cipherKey s.iv s.spool).1 = some p → 2 ^ 64 ≤ p.length →
    exec .decEnd s = .refused .counterOverflow) ∧
  (∀ (i : Instr) (s : State) (r : Refusal), exec i s = .refused r →
    r = .counterOverflow ∧ i.opcode ∈ [.scFeed, .scFinal, .encFeed, .encEnd, .decFeed, .decEnd])

/-! ### Key schedule -/

/-- R100: HKDF-Expand for 112 bytes: four HMACs, the last 16 bytes of the fourth discarded. -/
def Obligations.HkdfExpandFormula : Prop :=
  ∀ (prk info : Bytes),
    let t1 := bytesOf (Config.hmac prk (info ++ [1]))
    let t2 := bytesOf (Config.hmac prk (t1 ++ info ++ [2]))
    let t3 := bytesOf (Config.hmac prk (t2 ++ info ++ [3]))
    let t4 := bytesOf (Config.hmac prk (t3 ++ info ++ [4]))
    hkdfExpand prk info 112 = t1 ++ t2 ++ t3 ++ t4.take 16

/-- R103, R104: `KDF` on a 32-byte secret loads the first 80 bytes of the expansion as `IV`, `CK`, `MK`, drops every context,
and emits those 80 bytes. -/
def Obligations.KdfLoadsAndEmitsTheKeys : Prop :=
  ∀ (mt : MediaType) (p : Bytes) (s : State), Accepts .kdf s → p.length = 32 →
    ∃ t, exec (.kdf mt p) s = .next t ∧ keyBytes t = (hkdfExpand p (Config.label mt) 112).take 80 ∧
      t = { rekeyed s t with out := s.out ++ (hkdfExpand p (Config.label mt) 112).take 80 }

/-- R103, R105: `KEYS_LOAD` of 80 bytes loads them as `IV`, `CK`, `MK` and drops every context, with no output. -/
def Obligations.KeysLoadInstallsThePayload : Prop :=
  ∀ (p : Bytes) (s : State), Accepts .keysLoad s → p.length = 80 →
    ∃ t, exec (.keysLoad p) s = .next t ∧ keyBytes t = p ∧ t = rekeyed s t

/-- R24: only the key commands and the ends of a pipeline write the key registers. -/
def Obligations.OnlyKeyCommandsWriteKeys : Prop :=
  ∀ (i : Instr) (s t : State), exec i s = .next t →
    i.opcode ∉ [.kdf, .keysLoad, .encStart, .decStart, .encEnd, .decEnd, .abort] →
      t.iv = s.iv ∧ t.cipherKey = s.cipherKey ∧ t.macKey = s.macKey ∧ t.keysValid = s.keysValid

/-! ### CBC -/

/-- R120, R121, R122: each ciphertext block is the encryption of its plaintext block XOR the ciphertext block before it,
and each plaintext block the decryption of its ciphertext block XOR the ciphertext block before it, the given chain
state for the first; the new chain state is the last ciphertext block. -/
def Obligations.CbcRecurrences : Prop :=
  (∀ (k : Key) (c : Block) (x : Bytes), x.length % 16 = 0 →
    (cbcEncBlocks k c x).1.length = x.length ∧
    (∀ i, i < x.length / 16 → block (cbcEncBlocks k c x).1 i =
      Config.aesEnc k (xorBlock (block x i) (if i = 0 then c else block (cbcEncBlocks k c x).1 (i - 1)))) ∧
    (cbcEncBlocks k c x).2 = if x = [] then c else block (cbcEncBlocks k c x).1 (x.length / 16 - 1)) ∧
  (∀ (k : Key) (c : Block) (y : Bytes), y.length % 16 = 0 →
    (cbcDecBlocks k c y).1.length = y.length ∧
    (∀ i, i < y.length / 16 → block (cbcDecBlocks k c y).1 i =
      xorBlock (Config.aesDec k (block y i)) (if i = 0 then c else block y (i - 1))) ∧
    (cbcDecBlocks k c y).2 = if y = [] then c else block y (y.length / 16 - 1))

/-- R123, R124: of the block-aligned byte strings, exactly the padded ones unpad, and to what was padded. That the empty
string, which R124 does not take, does not unpad is the model's reading (DESIGN CHOICE, log 7). -/
def Obligations.UnpadAcceptsExactlyPaddedStrings : Prop :=
  ∀ (x y : Bytes), x.length % 16 = 0 → (pkcs7Unpad x = some y ↔ pkcs7Pad y = x)

/-- R125: `CBC_ENC` with keys, on any payload for a final call and on whole blocks otherwise. -/
def Obligations.CbcEncEncryptsAndChains : Prop :=
  ∀ (f seed : Bool) (p : Bytes) (s : State), Accepts .cbcEnc s → s.keysValid = true →
    (f = false → 0 < p.length ∧ p.length % 16 = 0) →
    exec (.cbcEnc f seed p) s = .next { s with
      chain := (cbcEncBlocks s.cipherKey (if seed then s.iv else s.chain) (if f then pkcs7Pad p else p)).2
      out := s.out ++ (cbcEncBlocks s.cipherKey (if seed then s.iv else s.chain) (if f then pkcs7Pad p else p)).1 }

/-- R126: `CBC_DEC` with keys on whole blocks: a non-final call emits the plaintext; a final call emits it unpadded, or
raises `InvalidPadding` and changes nothing else. -/
def Obligations.CbcDecDecryptsAndChains : Prop :=
  ∀ (seed : Bool) (p : Bytes) (s : State), Accepts .cbcDec s → s.keysValid = true →
    0 < p.length → p.length % 16 = 0 →
    let r := cbcDecBlocks s.cipherKey (if seed then s.iv else s.chain) p
    exec (.cbcDec false seed p) s = .next { s with chain := r.2, out := s.out ++ r.1 } ∧
    (∀ x, pkcs7Unpad r.1 = some x → exec (.cbcDec true seed p) s = .next { s with chain := r.2, out := s.out ++ x }) ∧
    (pkcs7Unpad r.1 = none →
      exec (.cbcDec true seed p) s = .next { s with err := some .invalidPadding, errOpc := 0x11 })

/-- R125, R126: a payload that is empty or no multiple of 16 raises `UnalignedInput` in a non-final `CBC_ENC` and in
every `CBC_DEC`. -/
def Obligations.UnalignedInputIsRaised : Prop :=
  ∀ (f seed : Bool) (p : Bytes) (s : State), s.keysValid = true → (p.length = 0 ∨ p.length % 16 ≠ 0) →
    (Accepts .cbcEnc s →
      exec (.cbcEnc false seed p) s = .next { s with err := some .unalignedInput, errOpc := 0x10 }) ∧
    (Accepts .cbcDec s →
      exec (.cbcDec f seed p) s = .next { s with err := some .unalignedInput, errOpc := 0x11 })

/-- R127: the chaining split law: a first non-final call on whole blocks and a second call without seed do what one call
on the joined payload does. For a final `CBC_DEC` the one call must succeed. -/
def Obligations.ChainingSplitLaw : Prop :=
  ∀ (f : Bool) (a b : Bytes) (s : State), 0 < a.length → a.length % 16 = 0 → s.keysValid = true →
    (f = false → 0 < b.length ∧ b.length % 16 = 0) →
    (Accepts .cbcEnc s →
      execAll [.cbcEnc false true a, .cbcEnc f false b] s = exec (.cbcEnc f true (a ++ b)) s) ∧
    (Accepts .cbcDec s → 0 < b.length → b.length % 16 = 0 →
      (f = true → pkcs7Unpad (cbcDecBlocks s.cipherKey s.iv (a ++ b)).1 ≠ none) →
      execAll [.cbcDec false true a, .cbcDec f false b] s = exec (.cbcDec f true (a ++ b)) s)

/-- R128: the inverse law: what `CBC_ENC.F.S` emits, `CBC_DEC.F.S` under the same `CK` and `IV` turns back into the
payload, for every payload. -/
def Obligations.SealThenOpenReturnsThePayload : Prop :=
  ∀ (p : Bytes) (s s' : State), Accepts .cbcEnc s → s.keysValid = true → Accepts .cbcDec s' → s'.keysValid = true →
    s'.cipherKey = s.cipherKey → s'.iv = s.iv →
    ∃ t y t', exec (.cbcEnc true true p) s = .next t ∧ t.err = none ∧ t.out = s.out ++ y ∧
      exec (.cbcDec true true y) s' = .next t' ∧ t'.err = none ∧ t'.out = s'.out ++ p

/-- R26: only the CBC commands, the key commands and the encrypt pipeline write `CHAIN`, besides the ends of a pipeline
and `ABORT`, which zero it. -/
def Obligations.OnlyChainingCommandsWriteChain : Prop :=
  ∀ (i : Instr) (s t : State), exec i s = .next t →
    (i.opcode ∉ [.cbcEnc, .cbcDec, .kdf, .keysLoad, .encStart, .encFeed, .encEnd, .decStart, .decEnd, .abort] →
      t.chain = s.chain) ∧
    (s.err = none → t.err = none → i.opcode ∈ [.encEnd, .decEnd, .abort] → t.chain = Vector.replicate 16 0) ∧
    (s.err = none → t.err = none → i.opcode ∈ [.kdf, .keysLoad, .encStart, .decStart] → t.chain = t.iv)

/-! ### MAC -/

/-- R152, R153, R154: `MAC_NEW` starts an accumulator seeded with `IV`, and `MAC_UPDATE` appends to a live one. -/
def Obligations.MacAccumulatorStartsAndGrows : Prop :=
  (∀ s : State, Accepts .macNew s → s.keysValid = true →
    exec .macNew s = .next { s with macSt := .active, macMsg := bytesOf s.iv }) ∧
  (∀ (p : Bytes) (s : State), Accepts .macUpdate s → s.macSt = .active →
    exec (.macUpdate p) s = .next { s with macMsg := s.macMsg ++ p })

/-- R150, R155, R156: `MAC_FINAL` emits the first 10 bytes of the HMAC, and `MAC_VERIFY` of exactly those bytes succeeds
without output; both finalize. -/
def Obligations.MacFinalAndVerifyUseTheTruncatedHmac : Prop :=
  ∀ s : State, s.macSt = .active →
    let tag := (bytesOf (Config.hmac (bytesOf s.macKey) s.macMsg)).take 10
    (Accepts .macFinal s → exec .macFinal s = .next { s with macSt := .final, out := s.out ++ tag }) ∧
    (Accepts .macVerify s → exec (.macVerify tag) s = .next { s with macSt := .final })

/-- R151, R156, R158: `MAC_VERIFY` raises `InvalidLength` for a payload that is not 10 bytes and `MacMismatch` for every 10
bytes other than the tag, wherever they differ; `MAC_ST` stays ACTIVE. -/
def Obligations.MacVerifyRejectsEveryOtherTag : Prop :=
  ∀ (p : Bytes) (s : State), Accepts .macVerify s → s.macSt = .active →
    (p.length ≠ 10 → exec (.macVerify p) s = .next { s with err := some .invalidLength, errOpc := 0x23 }) ∧
    (p.length = 10 → p ≠ (bytesOf (Config.hmac (bytesOf s.macKey) s.macMsg)).take 10 →
      exec (.macVerify p) s = .next { s with err := some .macMismatch, errOpc := 0x23 })

/-- R157: the chunk law: updates one after the other do what one update of the joined bytes does, in every state. -/
def Obligations.MacUpdatesAreChunkIndependent : Prop :=
  ∀ (parts : List Bytes) (s : State), parts ≠ [] →
    execAll (parts.map .macUpdate) s = exec (.macUpdate parts.flatten) s

/-! ### Sidecar -/

/-- R171, R175: `SC_FEED` on a live context tags and drops every window that has become complete, and nothing reaches
`SCO`. -/
def Obligations.SidecarFeedTagsFullWindows : Prop :=
  ∀ (p : Bytes) (s : State), Accepts .scFeed s → s.scSt = .active → SidecarCountersFit p s →
    exec (.scFeed p) s = .next (sidecarFed p s)

/-- R170, R172, R173, R174, R176: `SC_NEW` starts a fresh context in any lifecycle state; `SC_FINAL` on a live context tags
the trailing window, if any, and releases every tag to `SCO`. -/
def Obligations.SidecarContextStartsAndReleases : Prop :=
  (∀ s : State, Accepts .scNew s → s.keysValid = true →
    exec .scNew s = .next { s with
      scSt := .active, scBuf := [], scNext := 0, scEnd := 0, scCount := 0, scTags := [] }) ∧
  (∀ s : State, Accepts .scFinal s → s.scSt = .active → s.scCount.toNat + 1 < 2 ^ 64 →
    exec .scFinal s = .next (sidecarReleased s))

/-- R177, R179: the closed form of the sidecar: a byte string fed to a fresh context and finalized puts `N(L)` tags on
`SCO`, tag `i` over the window that starts at `i*65536`. -/
def Obligations.SidecarClosedForm : Prop :=
  ∀ (c : Bytes) (s : State), Accepts .scNew s → s.keysValid = true → c.length < 2 ^ 64 →
    ∃ t, execAll [.scNew, .scFeed c, .scFinal] s = .next t ∧ t.err = none ∧
      t.sco = s.sco ++ sidecarOf s.macKey c ∧ t.sco.length = s.sco.length + 10 * windowCount c.length ∧
      t.out = s.out ∧ t.scCount.toNat = windowCount c.length ∧ t.scEnd.toNat = c.length

/-- R178: chunk-size independence of the sidecar: feeds one after the other do what one feed of the joined bytes does, in
every state. -/
def Obligations.SidecarFeedsAreChunkIndependent : Prop :=
  ∀ (parts : List Bytes) (s : State), parts ≠ [] →
    execAll (parts.map .scFeed) s = exec (.scFeed parts.flatten) s

/-- R36, R72, R198, R274: a command other than `ABORT` only appends to the streams, and to `SCO` only `SC_FINAL` and
`ENC_END` do. -/
def Obligations.StreamsOnlyGrow : Prop :=
  ∀ (i : Instr) (s t : State), exec i s = .next t → i ≠ .abort →
    s.out <+: t.out ∧ s.sco <+: t.sco ∧ (t.sco ≠ s.sco → i = .scFinal ∨ i = .encEnd)

/-! ### Encrypt pipeline -/

/-- R190: `ENC_START` with a 32-byte secret constructs the pipeline: derived keys, chain state `IV`, an accumulator
seeded with `IV`, a fresh sidecar context if requested, cleared cursor state, and no output. -/
def Obligations.EncStartConstructsThePipeline : Prop :=
  ∀ (mt : MediaType) (sc : Bool) (p : Bytes) (s : State), Accepts .encStart s → p.length = 32 →
    ∃ t, exec (.encStart mt sc p) s = .next t ∧ keyBytes t = (hkdfExpand p (Config.label mt) 112).take 80 ∧
      t = { rekeyed s t with
        macSt := .active, macMsg := bytesOf t.iv, scSt := if sc then .active else .none, scEn := sc
        pend := [], consumed := 0, emitted := 0, drained := false, finalized := false, mode := .enc }

/-- R191, R192: `ENC_FEED` encrypts all full blocks of the pending and new bytes, delivers them to `OUT`, to the MAC and, if
requested, to the sidecar, and keeps the rest. -/
def Obligations.EncFeedEncryptsFullBlocks : Prop :=
  ∀ (p : Bytes) (s : State), Accepts .encFeed s →
    let buf := s.pend ++ p
    let n := 16 * (buf.length / 16)
    let r := cbcEncBlocks s.cipherKey s.chain (buf.take n)
    s.emitted.toNat + n < 2 ^ 64 → s.consumed.toNat + p.length < 2 ^ 64 →
    (s.scEn = true → s.scBuf.length < 65552 ∧ SidecarCountersFit r.1 s) →
    exec (.encFeed p) s = .next { delivered r.1 s with
      chain := r.2, pend := buf.drop n, consumed := BitVec.ofNat 64 (s.consumed.toNat + p.length) }

/-- R193, R194: `ENC_END` encrypts the padded rest, delivers it, releases the sidecar if requested, appends the trailer
as the last bytes of `OUT`, and closes the pipeline. -/
def Obligations.EncEndSealsTheMessage : Prop :=
  ∀ s : State, Accepts .encEnd s →
    let y := (cbcEncBlocks s.cipherKey s.chain (pkcs7Pad s.pend)).1
    s.emitted.toNat + y.length + 10 < 2 ^ 64 →
    (s.scEn = true → SidecarCountersFit y s ∧ (sidecarFed y s).scCount.toNat + 1 < 2 ^ 64) →
    exec .encEnd s = .next (pipelineClosed { released (delivered y s) with
      out := s.out ++ y ++ tag10 s.macKey (s.macMsg ++ y)
      emitted := BitVec.ofNat 64 (s.emitted.toNat + y.length + 10) })

/-- R195: chunk-size independence of encryption: every split of the plaintext gives what one feed gives, in every
state. -/
def Obligations.EncryptionIsChunkIndependent : Prop :=
  ∀ (mt : MediaType) (sc : Bool) (key : Bytes) (parts : List Bytes) (s : State),
    execAll (encryptRun mt sc key parts) s = execAll (encryptRun mt sc key [parts.flatten]) s

/-- R196, R197: the wire format: a completed encrypt pipeline puts `C ++ T` on `OUT`, and `sidecar(C)` on `SCO` only if
requested; with the lengths of both, and the counters it leaves (R37). -/
def Obligations.EncryptPipelineWireFormat : Prop :=
  ∀ (mt : MediaType) (sc : Bool) (key p : Bytes) (s : State), Accepts .encStart s → key.length = 32 →
    p.length + 26 < 2 ^ 64 →
    let k := derivedKeys key mt
    let c := (cbcEncBlocks k.cipherKey k.iv (pkcs7Pad p)).1
    ∃ t, execAll (encryptRun mt sc key [p]) s = .next t ∧ t.err = none ∧ t.mode = .idle ∧
      t.out = s.out ++ c ++ tag10 k.macKey (bytesOf k.iv ++ c) ∧
      t.sco = s.sco ++ (if sc then sidecarOf k.macKey c else []) ∧
      c.length = 16 * (p.length / 16 + 1) ∧
      t.out.length = s.out.length + (c.length + 10) ∧
      t.sco.length = s.sco.length + (if sc then 10 * windowCount c.length else 0) ∧
      t.consumed.toNat = p.length ∧ t.emitted.toNat = 16 * (t.consumed.toNat / 16 + 1) + 10

/-! ### Decrypt pipeline -/

/-- R210: `DEC_START` with a 32-byte secret constructs the pipeline: derived keys, an accumulator seeded with `IV`, no
sidecar, cleared cursor state, and no output. -/
def Obligations.DecStartConstructsThePipeline : Prop :=
  ∀ (mt : MediaType) (p : Bytes) (s : State), Accepts .decStart s → p.length = 32 →
    ∃ t, exec (.decStart mt p) s = .next t ∧ keyBytes t = (hkdfExpand p (Config.label mt) 112).take 80 ∧
      t = { rekeyed s t with
        macSt := .active, macMsg := bytesOf t.iv, scEn := false
        tail := [], spool := [], consumed := 0, emitted := 0, drained := false, finalized := false, mode := .dec }

/-- R211, R212: `DEC_FEED` withholds the last 10 bytes and spools and MACs the rest where the spool can hold them, and
raises `SpoolOverflow` and changes nothing else where it cannot. -/
def Obligations.DecFeedWithholdsTheTrailer : Prop :=
  ∀ (p : Bytes) (s : State), Accepts .decFeed s →
    let buf := s.tail ++ p
    let k := buf.length - 10
    (spoolFits s.params.spoolCap (s.spool.length + k) = true → s.consumed.toNat + p.length < 2 ^ 64 →
      exec (.decFeed p) s = .next { s with
        macMsg := s.macMsg ++ buf.take k, spool := s.spool ++ buf.take k, tail := buf.drop k
        consumed := BitVec.ofNat 64 (s.consumed.toNat + p.length) }) ∧
    (spoolFits s.params.spoolCap (s.spool.length + k) = false →
      exec (.decFeed p) s = .next { s with err := some .spoolOverflow, errOpc := 0x51 })

/-- R213: `DEC_END` that passes every check emits the unpadded plaintext at once and closes the pipeline. -/
def Obligations.DecEndReleasesThePlaintext : Prop :=
  ∀ (s : State) (p : Bytes), Accepts .decEnd s → 10 ≤ s.consumed.toNat → s.tail = tag10 s.macKey s.macMsg →
    0 < s.spool.length → s.spool.length % 16 = 0 →
    pkcs7Unpad (cbcDecBlocks s.cipherKey s.iv s.spool).1 = some p → p.length < 2 ^ 64 →
    exec .decEnd s = .next (pipelineClosed { s with out := s.out ++ p, emitted := BitVec.ofNat 64 p.length })

/-- R213, R243: the errors of `DEC_END` in the order of its checks; each changes `ERR` and `ERR_OPC` only. In a state no run
reaches, whose `TAIL` has not 10 bytes, the mismatch is the model's reading (DESIGN CHOICE, log 7). -/
def Obligations.DecEndErrorsInOrder : Prop :=
  ∀ s : State, Accepts .decEnd s →
    (s.consumed.toNat < 10 → exec .decEnd s = .next { s with err := some .invalidLength, errOpc := 0x52 }) ∧
    (10 ≤ s.consumed.toNat →
      (s.tail ≠ tag10 s.macKey s.macMsg → exec .decEnd s = .next { s with err := some .macMismatch, errOpc := 0x52 }) ∧
      (s.tail = tag10 s.macKey s.macMsg →
        (s.spool.length = 0 ∨ s.spool.length % 16 ≠ 0 →
          exec .decEnd s = .next { s with err := some .unalignedCiphertext, errOpc := 0x52 }) ∧
        (0 < s.spool.length → s.spool.length % 16 = 0 →
          pkcs7Unpad (cbcDecBlocks s.cipherKey s.iv s.spool).1 = none →
          exec .decEnd s = .next { s with err := some .invalidPadding, errOpc := 0x52 })))

/-- R214: verify before release: in a decrypt pipeline a command other than `ABORT` leaves `OUT` as it is, unless it is a
`DEC_END` that passes every check. -/
def Obligations.NoPlaintextBeforeVerification : Prop :=
  ∀ (i : Instr) (s t : State), s.mode = .dec → i ≠ .abort → exec i s = .next t → t.out ≠ s.out →
    i = .decEnd ∧ s.err = none ∧ t.err = none ∧ 10 ≤ s.consumed.toNat ∧ s.tail = tag10 s.macKey s.macMsg ∧
      0 < s.spool.length ∧ s.spool.length % 16 = 0 ∧
      ∃ p, pkcs7Unpad (cbcDecBlocks s.cipherKey s.iv s.spool).1 = some p ∧ t.out = s.out ++ p

/-- R215: the round trip: what a completed encrypt pipeline puts on `OUT`, a decrypt pipeline with the same secret and
media type turns back into the plaintext, on any engine whose spool can hold it. -/
def Obligations.DecryptionInvertsEncryption : Prop :=
  ∀ (mt : MediaType) (sc : Bool) (key p : Bytes) (s : State), Accepts .encStart s → key.length = 32 →
    p.length + 26 < 2 ^ 64 →
    ∃ t e, execAll (encryptRun mt sc key [p]) s = .next t ∧ t.err = none ∧ t.out = s.out ++ e ∧
      ∀ s' : State, Accepts .decStart s' → spoolFits s'.params.spoolCap (e.length - 10) = true →
        ∃ t', execAll (decryptRun mt key [e]) s' = .next t' ∧ t'.err = none ∧ t'.out = s'.out ++ p

/-- R216: chunk-size independence of decryption: feeds one after the other leave what one feed of the joined bytes
leaves, `TAIL` the last 10 bytes of all that came, or fewer if fewer came, and `SPOOL` the ones before, and
`SpoolOverflow` is raised by the one exactly when it is raised by the other. -/
def Obligations.DecryptFeedsAreChunkIndependent : Prop :=
  ∀ (parts : List Bytes) (s : State), parts ≠ [] → Accepts .decFeed s →
    s.consumed.toNat + parts.flatten.length < 2 ^ 64 →
    ∃ t t', exec (.decFeed parts.flatten) s = .next t ∧ execAll (parts.map .decFeed) s = .next t' ∧
      (t.err = none → t' = t ∧ t.spool ++ t.tail = s.spool ++ (s.tail ++ parts.flatten) ∧
        t.tail.length = min 10 (s.tail ++ parts.flatten).length) ∧
      t'.err = t.err

/-- R158, R217: a decrypt pipeline fed at least 10 bytes whose last 10 are not the tag of the rest raises `MacMismatch`, and
one fed fewer raises `InvalidLength`; neither emits a byte. -/
def Obligations.TamperedTrailerIsRejected : Prop :=
  ∀ (mt : MediaType) (key c trailer : Bytes) (s : State), Accepts .decStart s → key.length = 32 →
    c.length + trailer.length < 2 ^ 64 → spoolFits s.params.spoolCap c.length = true →
    let k := derivedKeys key mt
    (trailer.length = 10 → trailer ≠ tag10 k.macKey (bytesOf k.iv ++ c) →
      ∃ t, execAll (decryptRun mt key [c ++ trailer]) s = .next t ∧ t.err = some .macMismatch ∧ t.out = s.out) ∧
    (c = [] → trailer.length < 10 →
      ∃ t, execAll (decryptRun mt key [trailer]) s = .next t ∧ t.err = some .invalidLength ∧ t.out = s.out)

/-! ### The whole machine -/

/-- R37: reset meets the invariants of Sys2Proof/Safety.lean: R37's, and the model's strengthenings of them. The
parameters and the host's side stand in the state by the model's choice (DESIGN CHOICE, log 1, log 2). -/
def Obligations.ResetMeetsTheInvariants : Prop := State.Inv State.reset

/-- R37: every step keeps the invariants, from every state that meets them. The step takes the host's next transaction
from a queue that is the model's (DESIGN CHOICE, log 1). -/
def Obligations.StepKeepsTheInvariants : Prop :=
  ∀ s t : State, s.Inv → step s = .next t → t.Inv

/-- R43: no transaction changes the parameters. That they stand in the state is the model's choice (DESIGN CHOICE,
log 2). -/
def Obligations.ParametersNeverChange : Prop :=
  ∀ s t : State, step s = .next t → t.params = s.params

/-- R22: `MODE` is written by the starts and successful ends of the pipelines and by `ABORT` only, each to its value; an
error does not change it. -/
def Obligations.OnlyPipelineCommandsWriteMode : Prop :=
  ∀ (i : Instr) (s t : State), exec i s = .next t → t.mode ≠ s.mode →
    (i.opcode = .encStart ∧ t.mode = .enc ∧ t.err = none) ∨ (i.opcode = .decStart ∧ t.mode = .dec ∧ t.err = none) ∨
      (i.opcode ∈ [.encEnd, .decEnd, .abort] ∧ t.mode = .idle ∧ t.err = none)

/-- R34, R35: the cursor counters and flags are written by the pipeline commands and `ABORT` only. -/
def Obligations.OnlyPipelineCommandsWriteTheCursor : Prop :=
  ∀ (i : Instr) (s t : State), exec i s = .next t →
    (i.opcode ∉ [.encStart, .encFeed, .decStart, .decFeed, .abort] → t.consumed = s.consumed) ∧
    (i.opcode ∉ [.encStart, .encFeed, .encEnd, .decStart, .decEnd, .abort] → t.emitted = s.emitted) ∧
    (i.opcode ∉ [.encStart, .encEnd, .decStart, .decEnd, .abort] → t.drained = s.drained ∧ t.finalized = s.finalized) ∧
    (s.err = none → t.err = none → i.opcode ∈ [.encEnd, .decEnd] → t.drained = true ∧ t.finalized = true) ∧
    (s.err = none → t.err = none → i.opcode ∈ [.encStart, .decStart, .abort] → t.drained = false ∧ t.finalized = false)
end

