-- ==== Sys2Proof/Laws/Bytes.lean ====
section
/-! SUPPORT. What the byte-string operations of Machine/Operands.lean do: lengths, the two directions between fixed-size
and free byte strings, and blocks under concatenation (R10, R61, R120). -/

namespace Sys2Proof.Machine

open Sys2Proof

@[simp] theorem length_bytesOf {n : Nat} (v : Octets n) : (bytesOf v).length = n := by simp [bytesOf]

@[simp] theorem getElem_bytesOf {n : Nat} (v : Octets n) (i : Nat) (h : i < (bytesOf v).length) :
    (bytesOf v)[i] = v[i]'(by simpa using h) := by simp [bytesOf]

theorem bytesOf_octetsOf {n : Nat} {s : Bytes} (h : s.length = n) : bytesOf (octetsOf n s) = s := by
  apply List.ext_getElem
  · simp [h]
  · intro i h1 h2
    simp [octetsOf, h2]

@[simp] theorem octetsOf_bytesOf {n : Nat} (v : Octets n) : octetsOf n (bytesOf v) = v := by
  apply Vector.ext
  intro i h
  simp [octetsOf, List.getD]

theorem bytesOf_injective {n : Nat} {a b : Octets n} (h : bytesOf a = bytesOf b) : a = b := by
  rw [← octetsOf_bytesOf a, h, octetsOf_bytesOf]

/-- Slicing from the start takes. -/
@[simp] theorem slice_zero (s : Bytes) (b : Nat) : slice s 0 b = s.take b := by simp [slice]

theorem length_slice (s : Bytes) (a b : Nat) : (slice s a b).length = min (b - a) (s.length - a) := by simp [slice]

/-- Two adjacent slices join. -/
theorem take_append_slice (s : Bytes) {a b : Nat} (h : a ≤ b) : s.take a ++ slice s a b = s.take b := by
  rw [slice, ← List.take_add]; congr 1; omega

theorem block_append_left {a b : Bytes} {i : Nat} (h : 16 * i + 16 ≤ a.length) : block (a ++ b) i = block a i := by
  have h1 : slice (a ++ b) (16 * i) (16 * i + 16) = slice a (16 * i) (16 * i + 16) := by
    simp only [slice]
    rw [List.drop_append_of_le_length (by omega), List.take_append_of_le_length (by simp; omega)]
  simp only [block, h1]

theorem block_append_right {a b : Bytes} {m i : Nat} (h : a.length = 16 * m) : block (a ++ b) (m + i) = block b i := by
  have h1 : slice (a ++ b) (16 * (m + i)) (16 * (m + i) + 16) = slice b (16 * i) (16 * i + 16) := by
    simp only [slice, List.drop_append]
    have e1 : 16 * (m + i) - a.length = 16 * i := by omega
    have e2 : a.drop (16 * (m + i)) = [] := List.drop_eq_nil_of_le (by omega)
    have e3 : 16 * (m + i) + 16 - 16 * (m + i) = 16 * i + 16 - 16 * i := by omega
    rw [e1, e2, e3, List.nil_append]
  simp only [block, h1]

@[simp] theorem length_blocks (s : Bytes) : (blocks s).length = s.length / 16 := by simp [blocks]

@[simp] theorem blocks_nil : blocks [] = [] := rfl

/-- Whole blocks first: the blocks of a concatenation. -/
theorem blocks_append {a b : Bytes} (h : a.length % 16 = 0) : blocks (a ++ b) = blocks a ++ blocks b := by
  obtain ⟨m, hm⟩ : ∃ m, a.length = 16 * m := ⟨a.length / 16, by omega⟩
  have e : (a ++ b).length / 16 = m + b.length / 16 := by simp; omega
  have e' : a.length / 16 = m := by omega
  simp only [blocks, e, e', List.range_add, List.map_append, List.map_map]
  congr 1
  · apply List.map_congr_left
    intro i hi
    exact block_append_left (by have := List.mem_range.1 hi; omega)
  · apply List.map_congr_left
    intro i _
    exact block_append_right hm

theorem blocks_bytesOf (b : Block) : blocks (bytesOf b) = [b] := by
  have e : (bytesOf b).length / 16 = 1 := by simp
  simp only [blocks, e, List.range_one, List.map_cons, List.map_nil, block]
  congr 1
  have : slice (bytesOf b) (16 * 0) (16 * 0 + 16) = bytesOf b := by
    simp
  rw [this, octetsOf_bytesOf]

@[simp] theorem unblocks_nil : unblocks [] = [] := rfl

@[simp] theorem unblocks_cons (b : Block) (bs : List Block) : unblocks (b :: bs) = bytesOf b ++ unblocks bs := by
  simp [unblocks]

@[simp] theorem unblocks_append (as bs : List Block) : unblocks (as ++ bs) = unblocks as ++ unblocks bs := by
  simp [unblocks]

@[simp] theorem length_unblocks (bs : List Block) : (unblocks bs).length = 16 * bs.length := by
  induction bs with
  | nil => rfl
  | cons b bs ih => simp [ih]; omega

@[simp] theorem blocks_unblocks (bs : List Block) : blocks (unblocks bs) = bs := by
  induction bs with
  | nil => rfl
  | cons b bs ih => rw [unblocks_cons, blocks_append (by simp), blocks_bytesOf, ih]; rfl

/-- Whole blocks are recovered from their blocks. -/
theorem unblocks_blocks {s : Bytes} (h : s.length % 16 = 0) : unblocks (blocks s) = s := by
  obtain ⟨m, hm⟩ : ∃ m, s.length = 16 * m := ⟨s.length / 16, by omega⟩
  induction m generalizing s with
  | zero =>
    have : s = [] := List.length_eq_zero_iff.1 (by omega)
    subst this; rfl
  | succ m ih =>
    have hs : s = bytesOf (octetsOf 16 (s.take 16)) ++ s.drop 16 := by
      rw [bytesOf_octetsOf (by simp; omega), List.take_append_drop]
    rw [hs, blocks_append (by simp), blocks_bytesOf, List.cons_append, List.nil_append, unblocks_cons,
      ih (by simp; omega) (by simp; omega)]

/-- Byte strings with the same blocks, both whole, are equal. -/
theorem eq_of_blocks_eq {a b : Bytes} (ha : a.length % 16 = 0) (hb : b.length % 16 = 0) (h : blocks a = blocks b) :
    a = b := by
  rw [← unblocks_blocks ha, h, unblocks_blocks hb]

theorem getElem_blocks (s : Bytes) (i : Nat) (h : i < (blocks s).length) : (blocks s)[i] = block s i := by
  simp [blocks]

/-- XOR twice with the same block is the identity (R120). -/
@[simp] theorem xorBlock_xorBlock (a b : Block) : xorBlock (xorBlock a b) b = a := by
  apply Vector.ext
  intro i h
  simp [xorBlock]

end Sys2Proof.Machine
end

