-- ==== Sys2Proof/Laws/Cbc.lean ====
section
/-! SUPPORT. The chaining functions (R121, R122) under concatenation, and decryption after encryption. -/

namespace Sys2Proof.Machine

open Sys2Proof

/-- The parameter law of R8. -/
@[simp] theorem aesDec_aesEnc (k : Key) (b : Block) : Config.aesDec k (Config.aesEnc k b) = b := by
  simp [Config.aesDec, Config.aesEnc]

@[simp] theorem length_cbcEncList (k : Key) (c : Block) (xs : List Block) : (cbcEncList k c xs).1.length = xs.length := by
  induction xs generalizing c with
  | nil => rfl
  | cons x xs ih => simp [cbcEncList, ih]

@[simp] theorem length_cbcDecList (k : Key) (c : Block) (ys : List Block) : (cbcDecList k c ys).1.length = ys.length := by
  induction ys generalizing c with
  | nil => rfl
  | cons y ys ih => simp [cbcDecList, ih]

theorem cbcEncList_append (k : Key) (c : Block) (as bs : List Block) :
    cbcEncList k c (as ++ bs) =
      ((cbcEncList k c as).1 ++ (cbcEncList k (cbcEncList k c as).2 bs).1, (cbcEncList k (cbcEncList k c as).2 bs).2) := by
  induction as generalizing c with
  | nil => simp [cbcEncList]
  | cons a as ih => simp [cbcEncList, ih]

theorem cbcDecList_append (k : Key) (c : Block) (as bs : List Block) :
    cbcDecList k c (as ++ bs) =
      ((cbcDecList k c as).1 ++ (cbcDecList k (cbcDecList k c as).2 bs).1, (cbcDecList k (cbcDecList k c as).2 bs).2) := by
  induction as generalizing c with
  | nil => simp [cbcDecList]
  | cons a as ih => simp [cbcDecList, ih]

/-- Decryption of an encryption, with the same chain state after both. -/
theorem cbcDecList_cbcEncList (k : Key) (c : Block) (xs : List Block) :
    cbcDecList k c (cbcEncList k c xs).1 = (xs, (cbcEncList k c xs).2) := by
  induction xs generalizing c with
  | nil => rfl
  | cons x xs ih => simp [cbcEncList, cbcDecList, ih]

/-- Every length: the output is as long as the whole blocks of the input. -/
theorem length_cbcEncBlocks (k : Key) (c : Block) (x : Bytes) : (cbcEncBlocks k c x).1.length = 16 * (x.length / 16) := by
  simp [cbcEncBlocks]

theorem length_cbcDecBlocks (k : Key) (c : Block) (y : Bytes) : (cbcDecBlocks k c y).1.length = 16 * (y.length / 16) := by
  simp [cbcDecBlocks]

@[simp] theorem cbcEncBlocks_nil (k : Key) (c : Block) : cbcEncBlocks k c [] = ([], c) := rfl

/-- Encrypting a concatenation whose first part is whole blocks is encrypting the parts in turn, the chain carried. -/
theorem cbcEncBlocks_append (k : Key) (c : Block) {a : Bytes} (b : Bytes) (h : a.length % 16 = 0) :
    cbcEncBlocks k c (a ++ b) =
      ((cbcEncBlocks k c a).1 ++ (cbcEncBlocks k (cbcEncBlocks k c a).2 b).1,
        (cbcEncBlocks k (cbcEncBlocks k c a).2 b).2) := by
  simp [cbcEncBlocks, blocks_append h, cbcEncList_append]

theorem cbcDecBlocks_append (k : Key) (c : Block) {a : Bytes} (b : Bytes) (h : a.length % 16 = 0) :
    cbcDecBlocks k c (a ++ b) =
      ((cbcDecBlocks k c a).1 ++ (cbcDecBlocks k (cbcDecBlocks k c a).2 b).1,
        (cbcDecBlocks k (cbcDecBlocks k c a).2 b).2) := by
  simp [cbcDecBlocks, blocks_append h, cbcDecList_append]

/-- Decrypting an encryption of whole blocks from the same chain state gives the blocks back. -/
theorem cbcDecBlocks_cbcEncBlocks (k : Key) (c : Block) {x : Bytes} (h : x.length % 16 = 0) :
    (cbcDecBlocks k c (cbcEncBlocks k c x).1).1 = x := by
  simp [cbcDecBlocks, cbcEncBlocks, cbcDecList_cbcEncList, unblocks_blocks h]

end Sys2Proof.Machine
end

