-- ==== Sys2Proof/Laws/Closed.lean ====
section
/-! SUPPORT. One lemma per field of the closed forms of Safety.lean (R171, R173, R191, R194), each true by `rfl`. -/

namespace Sys2Proof.Machine

open Sys2Proof

variable (s : State)

/-! R171: `sidecarFed` -/

@[simp] theorem sidecarFed_params (c : Bytes) : (sidecarFed c s).params = s.params := rfl
@[simp] theorem sidecarFed_mode (c : Bytes) : (sidecarFed c s).mode = s.mode := rfl
@[simp] theorem sidecarFed_err (c : Bytes) : (sidecarFed c s).err = s.err := rfl
@[simp] theorem sidecarFed_errOpc (c : Bytes) : (sidecarFed c s).errOpc = s.errOpc := rfl
@[simp] theorem sidecarFed_keysValid (c : Bytes) : (sidecarFed c s).keysValid = s.keysValid := rfl
@[simp] theorem sidecarFed_iv (c : Bytes) : (sidecarFed c s).iv = s.iv := rfl
@[simp] theorem sidecarFed_cipherKey (c : Bytes) : (sidecarFed c s).cipherKey = s.cipherKey := rfl
@[simp] theorem sidecarFed_macKey (c : Bytes) : (sidecarFed c s).macKey = s.macKey := rfl
@[simp] theorem sidecarFed_chain (c : Bytes) : (sidecarFed c s).chain = s.chain := rfl
@[simp] theorem sidecarFed_macSt (c : Bytes) : (sidecarFed c s).macSt = s.macSt := rfl
@[simp] theorem sidecarFed_macMsg (c : Bytes) : (sidecarFed c s).macMsg = s.macMsg := rfl
@[simp] theorem sidecarFed_scSt (c : Bytes) : (sidecarFed c s).scSt = s.scSt := rfl
@[simp] theorem sidecarFed_scEn (c : Bytes) : (sidecarFed c s).scEn = s.scEn := rfl
@[simp] theorem sidecarFed_scBuf (c : Bytes) :
    (sidecarFed c s).scBuf = (s.scBuf ++ c).drop (65536 * fullWindows (s.scBuf ++ c).length) := rfl
@[simp] theorem sidecarFed_scNext (c : Bytes) :
    (sidecarFed c s).scNext = BitVec.ofNat 64 (s.scNext.toNat + 65536 * fullWindows (s.scBuf ++ c).length) := rfl
@[simp] theorem sidecarFed_scEnd (c : Bytes) :
    (sidecarFed c s).scEnd = BitVec.ofNat 64 (s.scEnd.toNat + c.length) := rfl
@[simp] theorem sidecarFed_scCount (c : Bytes) :
    (sidecarFed c s).scCount = BitVec.ofNat 64 (s.scCount.toNat + fullWindows (s.scBuf ++ c).length) := rfl
@[simp] theorem sidecarFed_scTags (c : Bytes) :
    (sidecarFed c s).scTags = s.scTags ++ windowTags s.macKey (s.scBuf ++ c) (fullWindows (s.scBuf ++ c).length) := rfl
@[simp] theorem sidecarFed_pend (c : Bytes) : (sidecarFed c s).pend = s.pend := rfl
@[simp] theorem sidecarFed_tail (c : Bytes) : (sidecarFed c s).tail = s.tail := rfl
@[simp] theorem sidecarFed_spool (c : Bytes) : (sidecarFed c s).spool = s.spool := rfl
@[simp] theorem sidecarFed_consumed (c : Bytes) : (sidecarFed c s).consumed = s.consumed := rfl
@[simp] theorem sidecarFed_emitted (c : Bytes) : (sidecarFed c s).emitted = s.emitted := rfl
@[simp] theorem sidecarFed_drained (c : Bytes) : (sidecarFed c s).drained = s.drained := rfl
@[simp] theorem sidecarFed_finalized (c : Bytes) : (sidecarFed c s).finalized = s.finalized := rfl
@[simp] theorem sidecarFed_out (c : Bytes) : (sidecarFed c s).out = s.out := rfl
@[simp] theorem sidecarFed_sco (c : Bytes) : (sidecarFed c s).sco = s.sco := rfl
@[simp] theorem sidecarFed_pending (c : Bytes) : (sidecarFed c s).pending = s.pending := rfl
@[simp] theorem sidecarFed_replies (c : Bytes) : (sidecarFed c s).replies = s.replies := rfl

/-! R172, R173: `sidecarReleased` -/

@[simp] theorem sidecarReleased_params : (sidecarReleased s).params = s.params := rfl
@[simp] theorem sidecarReleased_mode : (sidecarReleased s).mode = s.mode := rfl
@[simp] theorem sidecarReleased_err : (sidecarReleased s).err = s.err := rfl
@[simp] theorem sidecarReleased_errOpc : (sidecarReleased s).errOpc = s.errOpc := rfl
@[simp] theorem sidecarReleased_keysValid : (sidecarReleased s).keysValid = s.keysValid := rfl
@[simp] theorem sidecarReleased_iv : (sidecarReleased s).iv = s.iv := rfl
@[simp] theorem sidecarReleased_cipherKey : (sidecarReleased s).cipherKey = s.cipherKey := rfl
@[simp] theorem sidecarReleased_macKey : (sidecarReleased s).macKey = s.macKey := rfl
@[simp] theorem sidecarReleased_chain : (sidecarReleased s).chain = s.chain := rfl
@[simp] theorem sidecarReleased_macSt : (sidecarReleased s).macSt = s.macSt := rfl
@[simp] theorem sidecarReleased_macMsg : (sidecarReleased s).macMsg = s.macMsg := rfl
@[simp] theorem sidecarReleased_scSt : (sidecarReleased s).scSt = .final := rfl
@[simp] theorem sidecarReleased_scEn : (sidecarReleased s).scEn = s.scEn := rfl
@[simp] theorem sidecarReleased_scBuf :
    (sidecarReleased s).scBuf = if s.scNext.toNat < s.scEnd.toNat then [] else s.scBuf := rfl
@[simp] theorem sidecarReleased_scNext : (sidecarReleased s).scNext = s.scNext := rfl
@[simp] theorem sidecarReleased_scEnd : (sidecarReleased s).scEnd = s.scEnd := rfl
@[simp] theorem sidecarReleased_scCount :
    (sidecarReleased s).scCount = if s.scNext.toNat < s.scEnd.toNat then BitVec.ofNat 64 (s.scCount.toNat + 1) else s.scCount := rfl
@[simp] theorem sidecarReleased_scTags : (sidecarReleased s).scTags = [] := rfl
@[simp] theorem sidecarReleased_pend : (sidecarReleased s).pend = s.pend := rfl
@[simp] theorem sidecarReleased_tail : (sidecarReleased s).tail = s.tail := rfl
@[simp] theorem sidecarReleased_spool : (sidecarReleased s).spool = s.spool := rfl
@[simp] theorem sidecarReleased_consumed : (sidecarReleased s).consumed = s.consumed := rfl
@[simp] theorem sidecarReleased_emitted : (sidecarReleased s).emitted = s.emitted := rfl
@[simp] theorem sidecarReleased_drained : (sidecarReleased s).drained = s.drained := rfl
@[simp] theorem sidecarReleased_finalized : (sidecarReleased s).finalized = s.finalized := rfl
@[simp] theorem sidecarReleased_out : (sidecarReleased s).out = s.out := rfl
@[simp] theorem sidecarReleased_sco :
    (sidecarReleased s).sco = s.sco ++ (s.scTags ++ if s.scNext.toNat < s.scEnd.toNat then tag10 s.macKey s.scBuf else []) := rfl
@[simp] theorem sidecarReleased_pending : (sidecarReleased s).pending = s.pending := rfl
@[simp] theorem sidecarReleased_replies : (sidecarReleased s).replies = s.replies := rfl

/-! R191: `delivered` -/

@[simp] theorem delivered_params (y : Bytes) : (delivered y s).params = s.params := rfl
@[simp] theorem delivered_mode (y : Bytes) : (delivered y s).mode = s.mode := rfl
@[simp] theorem delivered_err (y : Bytes) : (delivered y s).err = s.err := rfl
@[simp] theorem delivered_errOpc (y : Bytes) : (delivered y s).errOpc = s.errOpc := rfl
@[simp] theorem delivered_keysValid (y : Bytes) : (delivered y s).keysValid = s.keysValid := rfl
@[simp] theorem delivered_iv (y : Bytes) : (delivered y s).iv = s.iv := rfl
@[simp] theorem delivered_cipherKey (y : Bytes) : (delivered y s).cipherKey = s.cipherKey := rfl
@[simp] theorem delivered_macKey (y : Bytes) : (delivered y s).macKey = s.macKey := rfl
@[simp] theorem delivered_chain (y : Bytes) : (delivered y s).chain = s.chain := rfl
@[simp] theorem delivered_macSt (y : Bytes) : (delivered y s).macSt = s.macSt := rfl
@[simp] theorem delivered_macMsg (y : Bytes) : (delivered y s).macMsg = s.macMsg ++ y := rfl
@[simp] theorem delivered_scSt (y : Bytes) : (delivered y s).scSt = s.scSt := rfl
@[simp] theorem delivered_scEn (y : Bytes) : (delivered y s).scEn = s.scEn := rfl
@[simp] theorem delivered_scBuf (y : Bytes) :
    (delivered y s).scBuf = if s.scEn then (sidecarFed y s).scBuf else s.scBuf := rfl
@[simp] theorem delivered_scNext (y : Bytes) :
    (delivered y s).scNext = if s.scEn then (sidecarFed y s).scNext else s.scNext := rfl
@[simp] theorem delivered_scEnd (y : Bytes) :
    (delivered y s).scEnd = if s.scEn then (sidecarFed y s).scEnd else s.scEnd := rfl
@[simp] theorem delivered_scCount (y : Bytes) :
    (delivered y s).scCount = if s.scEn then (sidecarFed y s).scCount else s.scCount := rfl
@[simp] theorem delivered_scTags (y : Bytes) :
    (delivered y s).scTags = if s.scEn then (sidecarFed y s).scTags else s.scTags := rfl
@[simp] theorem delivered_pend (y : Bytes) : (delivered y s).pend = s.pend := rfl
@[simp] theorem delivered_tail (y : Bytes) : (delivered y s).tail = s.tail := rfl
@[simp] theorem delivered_spool (y : Bytes) : (delivered y s).spool = s.spool := rfl
@[simp] theorem delivered_consumed (y : Bytes) : (delivered y s).consumed = s.consumed := rfl
@[simp] theorem delivered_emitted (y : Bytes) :
    (delivered y s).emitted = BitVec.ofNat 64 (s.emitted.toNat + y.length) := rfl
@[simp] theorem delivered_drained (y : Bytes) : (delivered y s).drained = s.drained := rfl
@[simp] theorem delivered_finalized (y : Bytes) : (delivered y s).finalized = s.finalized := rfl
@[simp] theorem delivered_out (y : Bytes) : (delivered y s).out = s.out ++ y := rfl
@[simp] theorem delivered_sco (y : Bytes) : (delivered y s).sco = s.sco := rfl
@[simp] theorem delivered_pending (y : Bytes) : (delivered y s).pending = s.pending := rfl
@[simp] theorem delivered_replies (y : Bytes) : (delivered y s).replies = s.replies := rfl

/-! R193: `released` -/

@[simp] theorem released_params : (released s).params = s.params := rfl
@[simp] theorem released_mode : (released s).mode = s.mode := rfl
@[simp] theorem released_err : (released s).err = s.err := rfl
@[simp] theorem released_errOpc : (released s).errOpc = s.errOpc := rfl
@[simp] theorem released_keysValid : (released s).keysValid = s.keysValid := rfl
@[simp] theorem released_iv : (released s).iv = s.iv := rfl
@[simp] theorem released_cipherKey : (released s).cipherKey = s.cipherKey := rfl
@[simp] theorem released_macKey : (released s).macKey = s.macKey := rfl
@[simp] theorem released_chain : (released s).chain = s.chain := rfl
@[simp] theorem released_macSt : (released s).macSt = s.macSt := rfl
@[simp] theorem released_macMsg : (released s).macMsg = s.macMsg := rfl
@[simp] theorem released_scSt : (released s).scSt = if s.scEn then (sidecarReleased s).scSt else s.scSt := rfl
@[simp] theorem released_scEn : (released s).scEn = s.scEn := rfl
@[simp] theorem released_scBuf : (released s).scBuf = if s.scEn then (sidecarReleased s).scBuf else s.scBuf := rfl
@[simp] theorem released_scNext : (released s).scNext = s.scNext := rfl
@[simp] theorem released_scEnd : (released s).scEnd = s.scEnd := rfl
@[simp] theorem released_scCount : (released s).scCount = if s.scEn then (sidecarReleased s).scCount else s.scCount := rfl
@[simp] theorem released_scTags : (released s).scTags = if s.scEn then (sidecarReleased s).scTags else s.scTags := rfl
@[simp] theorem released_pend : (released s).pend = s.pend := rfl
@[simp] theorem released_tail : (released s).tail = s.tail := rfl
@[simp] theorem released_spool : (released s).spool = s.spool := rfl
@[simp] theorem released_consumed : (released s).consumed = s.consumed := rfl
@[simp] theorem released_emitted : (released s).emitted = s.emitted := rfl
@[simp] theorem released_drained : (released s).drained = s.drained := rfl
@[simp] theorem released_finalized : (released s).finalized = s.finalized := rfl
@[simp] theorem released_out : (released s).out = s.out := rfl
@[simp] theorem released_sco : (released s).sco = if s.scEn then (sidecarReleased s).sco else s.sco := rfl
@[simp] theorem released_pending : (released s).pending = s.pending := rfl
@[simp] theorem released_replies : (released s).replies = s.replies := rfl

/-! R194: `pipelineClosed` -/

@[simp] theorem pipelineClosed_params : (pipelineClosed s).params = s.params := rfl
@[simp] theorem pipelineClosed_mode : (pipelineClosed s).mode = .idle := rfl
@[simp] theorem pipelineClosed_err : (pipelineClosed s).err = s.err := rfl
@[simp] theorem pipelineClosed_errOpc : (pipelineClosed s).errOpc = s.errOpc := rfl
@[simp] theorem pipelineClosed_keysValid : (pipelineClosed s).keysValid = false := rfl
@[simp] theorem pipelineClosed_iv : (pipelineClosed s).iv = zeros 16 := rfl
@[simp] theorem pipelineClosed_cipherKey : (pipelineClosed s).cipherKey = zeros 32 := rfl
@[simp] theorem pipelineClosed_macKey : (pipelineClosed s).macKey = zeros 32 := rfl
@[simp] theorem pipelineClosed_chain : (pipelineClosed s).chain = zeros 16 := rfl
@[simp] theorem pipelineClosed_macSt : (pipelineClosed s).macSt = .none := rfl
@[simp] theorem pipelineClosed_macMsg : (pipelineClosed s).macMsg = [] := rfl
@[simp] theorem pipelineClosed_scSt : (pipelineClosed s).scSt = .none := rfl
@[simp] theorem pipelineClosed_scEn : (pipelineClosed s).scEn = false := rfl
@[simp] theorem pipelineClosed_scBuf : (pipelineClosed s).scBuf = [] := rfl
@[simp] theorem pipelineClosed_scNext : (pipelineClosed s).scNext = s.scNext := rfl
@[simp] theorem pipelineClosed_scEnd : (pipelineClosed s).scEnd = s.scEnd := rfl
@[simp] theorem pipelineClosed_scCount : (pipelineClosed s).scCount = s.scCount := rfl
@[simp] theorem pipelineClosed_scTags : (pipelineClosed s).scTags = [] := rfl
@[simp] theorem pipelineClosed_pend : (pipelineClosed s).pend = [] := rfl
@[simp] theorem pipelineClosed_tail : (pipelineClosed s).tail = [] := rfl
@[simp] theorem pipelineClosed_spool : (pipelineClosed s).spool = [] := rfl
@[simp] theorem pipelineClosed_consumed : (pipelineClosed s).consumed = s.consumed := rfl
@[simp] theorem pipelineClosed_emitted : (pipelineClosed s).emitted = s.emitted := rfl
@[simp] theorem pipelineClosed_drained : (pipelineClosed s).drained = true := rfl
@[simp] theorem pipelineClosed_finalized : (pipelineClosed s).finalized = true := rfl
@[simp] theorem pipelineClosed_out : (pipelineClosed s).out = s.out := rfl
@[simp] theorem pipelineClosed_sco : (pipelineClosed s).sco = s.sco := rfl
@[simp] theorem pipelineClosed_pending : (pipelineClosed s).pending = s.pending := rfl
@[simp] theorem pipelineClosed_replies : (pipelineClosed s).replies = s.replies := rfl

end Sys2Proof.Machine
end

