-- ==== Sys2Proof/Laws/Decode.lean ====
section
/-! SUPPORT. What the decoder (30_encoding.md R83 to R85) answers, said once: a word that matches an opcode's row decodes to
that opcode's command. -/

namespace Sys2Proof

@[simp] theorem opcodeOf_code (op : Opcode) : opcodeOf op.code = some op := by cases op <;> rfl

theorem opcodeOf_eq_some {b : Byte} {op : Opcode} : opcodeOf b = some op ↔ op.code = b := by
  constructor
  · intro h
    simpa using List.find?_some h
  · rintro rfl; exact opcodeOf_code op

/-- The mask of every row covers the opcode byte. -/
theorem opcField_of_match {w : Word} {op : Opcode} (h : w &&& op.mask = op.matchBits) : opcField w = op.code := by
  have h1 : opcField op.mask = 0xFF#8 := by cases op <;> rfl
  have h2 : opcField (w &&& op.mask) = opcField w &&& opcField op.mask := BitVec.extractLsb'_and
  have h3 : opcField w = opcField (w &&& op.mask) := by
    rw [h2, h1]; exact (BitVec.and_allOnes (x := opcField w)).symm
  rw [h3, h]; cases op <;> rfl

/-- A word that matches a row, with no payload where the row forbids one, decodes to the row's command. -/
theorem decode_of_match {w : Word} {p : Bytes} {op : Opcode} (h : w &&& op.mask = op.matchBits)
    (hp : op.payloadClass = .none → p = []) : decode w p = .ok (buildInstr op w p) := by
  rw [decode, opcField_of_match h, opcodeOf_code]
  simp only [h, ne_eq, not_true_eq_false, if_false]
  rw [if_neg (fun hn => hn.2 (hp hn.1))]

/-- Nothing else decodes. -/
theorem decode_eq_ok {w : Word} {p : Bytes} {i : Instr} :
    decode w p = .ok i ↔
      ∃ op : Opcode, w &&& op.mask = op.matchBits ∧ (op.payloadClass = .none → p = []) ∧ i = buildInstr op w p := by
  constructor
  · intro h
    unfold decode at h
    split at h
    · cases h
    · next op _ =>
      split at h
      · cases h
      · next hm =>
        split at h
        · cases h
        · next hp =>
          refine ⟨op, Classical.not_not.1 hm, fun hn => Classical.not_not.1 fun hne => hp ⟨hn, hne⟩, ?_⟩
          cases h; rfl
  · rintro ⟨op, h, hp, rfl⟩
    exact decode_of_match h hp

@[simp] theorem opcode_buildInstr (op : Opcode) (w : Word) (p : Bytes) : (buildInstr op w p).opcode = op := by
  cases op <;> rfl

@[simp] theorem code_mediaTypeOf (b : BitVec 2) : (mediaTypeOf b).code = b := by revert b; decide

@[simp] theorem mediaTypeOf_code (mt : MediaType) : mediaTypeOf mt.code = mt := by cases mt <;> rfl

end Sys2Proof
end

