-- ==== Sys2Proof/Laws/State.lean ====
section
/-! SUPPORT. One lemma per field per update of the state, each true by `rfl`, so that no later proof unfolds a record
update. -/

namespace Sys2Proof.Machine

open Sys2Proof

variable (s : State)

/-! R12: `emit_out` -/

@[simp] theorem emitOut_params (bs : Bytes) : (emitOut bs s).params = s.params := rfl
@[simp] theorem emitOut_mode (bs : Bytes) : (emitOut bs s).mode = s.mode := rfl
@[simp] theorem emitOut_err (bs : Bytes) : (emitOut bs s).err = s.err := rfl
@[simp] theorem emitOut_errOpc (bs : Bytes) : (emitOut bs s).errOpc = s.errOpc := rfl
@[simp] theorem emitOut_keysValid (bs : Bytes) : (emitOut bs s).keysValid = s.keysValid := rfl
@[simp] theorem emitOut_iv (bs : Bytes) : (emitOut bs s).iv = s.iv := rfl
@[simp] theorem emitOut_cipherKey (bs : Bytes) : (emitOut bs s).cipherKey = s.cipherKey := rfl
@[simp] theorem emitOut_macKey (bs : Bytes) : (emitOut bs s).macKey = s.macKey := rfl
@[simp] theorem emitOut_chain (bs : Bytes) : (emitOut bs s).chain = s.chain := rfl
@[simp] theorem emitOut_macSt (bs : Bytes) : (emitOut bs s).macSt = s.macSt := rfl
@[simp] theorem emitOut_macMsg (bs : Bytes) : (emitOut bs s).macMsg = s.macMsg := rfl
@[simp] theorem emitOut_scSt (bs : Bytes) : (emitOut bs s).scSt = s.scSt := rfl
@[simp] theorem emitOut_scEn (bs : Bytes) : (emitOut bs s).scEn = s.scEn := rfl
@[simp] theorem emitOut_scBuf (bs : Bytes) : (emitOut bs s).scBuf = s.scBuf := rfl
@[simp] theorem emitOut_scNext (bs : Bytes) : (emitOut bs s).scNext = s.scNext := rfl
@[simp] theorem emitOut_scEnd (bs : Bytes) : (emitOut bs s).scEnd = s.scEnd := rfl
@[simp] theorem emitOut_scCount (bs : Bytes) : (emitOut bs s).scCount = s.scCount := rfl
@[simp] theorem emitOut_scTags (bs : Bytes) : (emitOut bs s).scTags = s.scTags := rfl
@[simp] theorem emitOut_pend (bs : Bytes) : (emitOut bs s).pend = s.pend := rfl
@[simp] theorem emitOut_tail (bs : Bytes) : (emitOut bs s).tail = s.tail := rfl
@[simp] theorem emitOut_spool (bs : Bytes) : (emitOut bs s).spool = s.spool := rfl
@[simp] theorem emitOut_consumed (bs : Bytes) : (emitOut bs s).consumed = s.consumed := rfl
@[simp] theorem emitOut_emitted (bs : Bytes) : (emitOut bs s).emitted = s.emitted := rfl
@[simp] theorem emitOut_drained (bs : Bytes) : (emitOut bs s).drained = s.drained := rfl
@[simp] theorem emitOut_finalized (bs : Bytes) : (emitOut bs s).finalized = s.finalized := rfl
@[simp] theorem emitOut_out (bs : Bytes) : (emitOut bs s).out = s.out ++ bs := rfl
@[simp] theorem emitOut_sco (bs : Bytes) : (emitOut bs s).sco = s.sco := rfl
@[simp] theorem emitOut_pending (bs : Bytes) : (emitOut bs s).pending = s.pending := rfl
@[simp] theorem emitOut_replies (bs : Bytes) : (emitOut bs s).replies = s.replies := rfl

/-! R12: `emit_sco` -/

@[simp] theorem emitSco_params (bs : Bytes) : (emitSco bs s).params = s.params := rfl
@[simp] theorem emitSco_mode (bs : Bytes) : (emitSco bs s).mode = s.mode := rfl
@[simp] theorem emitSco_err (bs : Bytes) : (emitSco bs s).err = s.err := rfl
@[simp] theorem emitSco_errOpc (bs : Bytes) : (emitSco bs s).errOpc = s.errOpc := rfl
@[simp] theorem emitSco_keysValid (bs : Bytes) : (emitSco bs s).keysValid = s.keysValid := rfl
@[simp] theorem emitSco_iv (bs : Bytes) : (emitSco bs s).iv = s.iv := rfl
@[simp] theorem emitSco_cipherKey (bs : Bytes) : (emitSco bs s).cipherKey = s.cipherKey := rfl
@[simp] theorem emitSco_macKey (bs : Bytes) : (emitSco bs s).macKey = s.macKey := rfl
@[simp] theorem emitSco_chain (bs : Bytes) : (emitSco bs s).chain = s.chain := rfl
@[simp] theorem emitSco_macSt (bs : Bytes) : (emitSco bs s).macSt = s.macSt := rfl
@[simp] theorem emitSco_macMsg (bs : Bytes) : (emitSco bs s).macMsg = s.macMsg := rfl
@[simp] theorem emitSco_scSt (bs : Bytes) : (emitSco bs s).scSt = s.scSt := rfl
@[simp] theorem emitSco_scEn (bs : Bytes) : (emitSco bs s).scEn = s.scEn := rfl
@[simp] theorem emitSco_scBuf (bs : Bytes) : (emitSco bs s).scBuf = s.scBuf := rfl
@[simp] theorem emitSco_scNext (bs : Bytes) : (emitSco bs s).scNext = s.scNext := rfl
@[simp] theorem emitSco_scEnd (bs : Bytes) : (emitSco bs s).scEnd = s.scEnd := rfl
@[simp] theorem emitSco_scCount (bs : Bytes) : (emitSco bs s).scCount = s.scCount := rfl
@[simp] theorem emitSco_scTags (bs : Bytes) : (emitSco bs s).scTags = s.scTags := rfl
@[simp] theorem emitSco_pend (bs : Bytes) : (emitSco bs s).pend = s.pend := rfl
@[simp] theorem emitSco_tail (bs : Bytes) : (emitSco bs s).tail = s.tail := rfl
@[simp] theorem emitSco_spool (bs : Bytes) : (emitSco bs s).spool = s.spool := rfl
@[simp] theorem emitSco_consumed (bs : Bytes) : (emitSco bs s).consumed = s.consumed := rfl
@[simp] theorem emitSco_emitted (bs : Bytes) : (emitSco bs s).emitted = s.emitted := rfl
@[simp] theorem emitSco_drained (bs : Bytes) : (emitSco bs s).drained = s.drained := rfl
@[simp] theorem emitSco_finalized (bs : Bytes) : (emitSco bs s).finalized = s.finalized := rfl
@[simp] theorem emitSco_out (bs : Bytes) : (emitSco bs s).out = s.out := rfl
@[simp] theorem emitSco_sco (bs : Bytes) : (emitSco bs s).sco = s.sco ++ bs := rfl
@[simp] theorem emitSco_pending (bs : Bytes) : (emitSco bs s).pending = s.pending := rfl
@[simp] theorem emitSco_replies (bs : Bytes) : (emitSco bs s).replies = s.replies := rfl

/-! R241: `raise` -/

@[simp] theorem raiseError_params (opc : Byte) (e : EngineError) : (raiseError opc e s).params = s.params := rfl
@[simp] theorem raiseError_mode (opc : Byte) (e : EngineError) : (raiseError opc e s).mode = s.mode := rfl
@[simp] theorem raiseError_err (opc : Byte) (e : EngineError) : (raiseError opc e s).err = some e := rfl
@[simp] theorem raiseError_errOpc (opc : Byte) (e : EngineError) : (raiseError opc e s).errOpc = opc := rfl
@[simp] theorem raiseError_keysValid (opc : Byte) (e : EngineError) : (raiseError opc e s).keysValid = s.keysValid := rfl
@[simp] theorem raiseError_iv (opc : Byte) (e : EngineError) : (raiseError opc e s).iv = s.iv := rfl
@[simp] theorem raiseError_cipherKey (opc : Byte) (e : EngineError) : (raiseError opc e s).cipherKey = s.cipherKey := rfl
@[simp] theorem raiseError_macKey (opc : Byte) (e : EngineError) : (raiseError opc e s).macKey = s.macKey := rfl
@[simp] theorem raiseError_chain (opc : Byte) (e : EngineError) : (raiseError opc e s).chain = s.chain := rfl
@[simp] theorem raiseError_macSt (opc : Byte) (e : EngineError) : (raiseError opc e s).macSt = s.macSt := rfl
@[simp] theorem raiseError_macMsg (opc : Byte) (e : EngineError) : (raiseError opc e s).macMsg = s.macMsg := rfl
@[simp] theorem raiseError_scSt (opc : Byte) (e : EngineError) : (raiseError opc e s).scSt = s.scSt := rfl
@[simp] theorem raiseError_scEn (opc : Byte) (e : EngineError) : (raiseError opc e s).scEn = s.scEn := rfl
@[simp] theorem raiseError_scBuf (opc : Byte) (e : EngineError) : (raiseError opc e s).scBuf = s.scBuf := rfl
@[simp] theorem raiseError_scNext (opc : Byte) (e : EngineError) : (raiseError opc e s).scNext = s.scNext := rfl
@[simp] theorem raiseError_scEnd (opc : Byte) (e : EngineError) : (raiseError opc e s).scEnd = s.scEnd := rfl
@[simp] theorem raiseError_scCount (opc : Byte) (e : EngineError) : (raiseError opc e s).scCount = s.scCount := rfl
@[simp] theorem raiseError_scTags (opc : Byte) (e : EngineError) : (raiseError opc e s).scTags = s.scTags := rfl
@[simp] theorem raiseError_pend (opc : Byte) (e : EngineError) : (raiseError opc e s).pend = s.pend := rfl
@[simp] theorem raiseError_tail (opc : Byte) (e : EngineError) : (raiseError opc e s).tail = s.tail := rfl
@[simp] theorem raiseError_spool (opc : Byte) (e : EngineError) : (raiseError opc e s).spool = s.spool := rfl
@[simp] theorem raiseError_consumed (opc : Byte) (e : EngineError) : (raiseError opc e s).consumed = s.consumed := rfl
@[simp] theorem raiseError_emitted (opc : Byte) (e : EngineError) : (raiseError opc e s).emitted = s.emitted := rfl
@[simp] theorem raiseError_drained (opc : Byte) (e : EngineError) : (raiseError opc e s).drained = s.drained := rfl
@[simp] theorem raiseError_finalized (opc : Byte) (e : EngineError) : (raiseError opc e s).finalized = s.finalized := rfl
@[simp] theorem raiseError_out (opc : Byte) (e : EngineError) : (raiseError opc e s).out = s.out := rfl
@[simp] theorem raiseError_sco (opc : Byte) (e : EngineError) : (raiseError opc e s).sco = s.sco := rfl
@[simp] theorem raiseError_pending (opc : Byte) (e : EngineError) : (raiseError opc e s).pending = s.pending := rfl
@[simp] theorem raiseError_replies (opc : Byte) (e : EngineError) : (raiseError opc e s).replies = s.replies := rfl

/-! R103: `load_keys` -/

@[simp] theorem loadKeys_params (k : KeySet) : (loadKeys k s).params = s.params := rfl
@[simp] theorem loadKeys_mode (k : KeySet) : (loadKeys k s).mode = s.mode := rfl
@[simp] theorem loadKeys_err (k : KeySet) : (loadKeys k s).err = s.err := rfl
@[simp] theorem loadKeys_errOpc (k : KeySet) : (loadKeys k s).errOpc = s.errOpc := rfl
@[simp] theorem loadKeys_keysValid (k : KeySet) : (loadKeys k s).keysValid = true := rfl
@[simp] theorem loadKeys_iv (k : KeySet) : (loadKeys k s).iv = k.iv := rfl
@[simp] theorem loadKeys_cipherKey (k : KeySet) : (loadKeys k s).cipherKey = k.cipherKey := rfl
@[simp] theorem loadKeys_macKey (k : KeySet) : (loadKeys k s).macKey = k.macKey := rfl
@[simp] theorem loadKeys_chain (k : KeySet) : (loadKeys k s).chain = k.iv := rfl
@[simp] theorem loadKeys_macSt (k : KeySet) : (loadKeys k s).macSt = .none := rfl
@[simp] theorem loadKeys_macMsg (k : KeySet) : (loadKeys k s).macMsg = [] := rfl
@[simp] theorem loadKeys_scSt (k : KeySet) : (loadKeys k s).scSt = .none := rfl
@[simp] theorem loadKeys_scEn (k : KeySet) : (loadKeys k s).scEn = s.scEn := rfl
@[simp] theorem loadKeys_scBuf (k : KeySet) : (loadKeys k s).scBuf = [] := rfl
@[simp] theorem loadKeys_scNext (k : KeySet) : (loadKeys k s).scNext = 0 := rfl
@[simp] theorem loadKeys_scEnd (k : KeySet) : (loadKeys k s).scEnd = 0 := rfl
@[simp] theorem loadKeys_scCount (k : KeySet) : (loadKeys k s).scCount = 0 := rfl
@[simp] theorem loadKeys_scTags (k : KeySet) : (loadKeys k s).scTags = [] := rfl
@[simp] theorem loadKeys_pend (k : KeySet) : (loadKeys k s).pend = s.pend := rfl
@[simp] theorem loadKeys_tail (k : KeySet) : (loadKeys k s).tail = s.tail := rfl
@[simp] theorem loadKeys_spool (k : KeySet) : (loadKeys k s).spool = s.spool := rfl
@[simp] theorem loadKeys_consumed (k : KeySet) : (loadKeys k s).consumed = s.consumed := rfl
@[simp] theorem loadKeys_emitted (k : KeySet) : (loadKeys k s).emitted = s.emitted := rfl
@[simp] theorem loadKeys_drained (k : KeySet) : (loadKeys k s).drained = s.drained := rfl
@[simp] theorem loadKeys_finalized (k : KeySet) : (loadKeys k s).finalized = s.finalized := rfl
@[simp] theorem loadKeys_out (k : KeySet) : (loadKeys k s).out = s.out := rfl
@[simp] theorem loadKeys_sco (k : KeySet) : (loadKeys k s).sco = s.sco := rfl
@[simp] theorem loadKeys_pending (k : KeySet) : (loadKeys k s).pending = s.pending := rfl
@[simp] theorem loadKeys_replies (k : KeySet) : (loadKeys k s).replies = s.replies := rfl

/-! R152: `mac_init` -/

@[simp] theorem macInit_params : (macInit s).params = s.params := rfl
@[simp] theorem macInit_mode : (macInit s).mode = s.mode := rfl
@[simp] theorem macInit_err : (macInit s).err = s.err := rfl
@[simp] theorem macInit_errOpc : (macInit s).errOpc = s.errOpc := rfl
@[simp] theorem macInit_keysValid : (macInit s).keysValid = s.keysValid := rfl
@[simp] theorem macInit_iv : (macInit s).iv = s.iv := rfl
@[simp] theorem macInit_cipherKey : (macInit s).cipherKey = s.cipherKey := rfl
@[simp] theorem macInit_macKey : (macInit s).macKey = s.macKey := rfl
@[simp] theorem macInit_chain : (macInit s).chain = s.chain := rfl
@[simp] theorem macInit_macSt : (macInit s).macSt = .active := rfl
@[simp] theorem macInit_macMsg : (macInit s).macMsg = bytesOf s.iv := rfl
@[simp] theorem macInit_scSt : (macInit s).scSt = s.scSt := rfl
@[simp] theorem macInit_scEn : (macInit s).scEn = s.scEn := rfl
@[simp] theorem macInit_scBuf : (macInit s).scBuf = s.scBuf := rfl
@[simp] theorem macInit_scNext : (macInit s).scNext = s.scNext := rfl
@[simp] theorem macInit_scEnd : (macInit s).scEnd = s.scEnd := rfl
@[simp] theorem macInit_scCount : (macInit s).scCount = s.scCount := rfl
@[simp] theorem macInit_scTags : (macInit s).scTags = s.scTags := rfl
@[simp] theorem macInit_pend : (macInit s).pend = s.pend := rfl
@[simp] theorem macInit_tail : (macInit s).tail = s.tail := rfl
@[simp] theorem macInit_spool : (macInit s).spool = s.spool := rfl
@[simp] theorem macInit_consumed : (macInit s).consumed = s.consumed := rfl
@[simp] theorem macInit_emitted : (macInit s).emitted = s.emitted := rfl
@[simp] theorem macInit_drained : (macInit s).drained = s.drained := rfl
@[simp] theorem macInit_finalized : (macInit s).finalized = s.finalized := rfl
@[simp] theorem macInit_out : (macInit s).out = s.out := rfl
@[simp] theorem macInit_sco : (macInit s).sco = s.sco := rfl
@[simp] theorem macInit_pending : (macInit s).pending = s.pending := rfl
@[simp] theorem macInit_replies : (macInit s).replies = s.replies := rfl

/-! R152: `mac_feed` -/

@[simp] theorem macFeed_params (bs : Bytes) : (macFeed bs s).params = s.params := rfl
@[simp] theorem macFeed_mode (bs : Bytes) : (macFeed bs s).mode = s.mode := rfl
@[simp] theorem macFeed_err (bs : Bytes) : (macFeed bs s).err = s.err := rfl
@[simp] theorem macFeed_errOpc (bs : Bytes) : (macFeed bs s).errOpc = s.errOpc := rfl
@[simp] theorem macFeed_keysValid (bs : Bytes) : (macFeed bs s).keysValid = s.keysValid := rfl
@[simp] theorem macFeed_iv (bs : Bytes) : (macFeed bs s).iv = s.iv := rfl
@[simp] theorem macFeed_cipherKey (bs : Bytes) : (macFeed bs s).cipherKey = s.cipherKey := rfl
@[simp] theorem macFeed_macKey (bs : Bytes) : (macFeed bs s).macKey = s.macKey := rfl
@[simp] theorem macFeed_chain (bs : Bytes) : (macFeed bs s).chain = s.chain := rfl
@[simp] theorem macFeed_macSt (bs : Bytes) : (macFeed bs s).macSt = s.macSt := rfl
@[simp] theorem macFeed_macMsg (bs : Bytes) : (macFeed bs s).macMsg = s.macMsg ++ bs := rfl
@[simp] theorem macFeed_scSt (bs : Bytes) : (macFeed bs s).scSt = s.scSt := rfl
@[simp] theorem macFeed_scEn (bs : Bytes) : (macFeed bs s).scEn = s.scEn := rfl
@[simp] theorem macFeed_scBuf (bs : Bytes) : (macFeed bs s).scBuf = s.scBuf := rfl
@[simp] theorem macFeed_scNext (bs : Bytes) : (macFeed bs s).scNext = s.scNext := rfl
@[simp] theorem macFeed_scEnd (bs : Bytes) : (macFeed bs s).scEnd = s.scEnd := rfl
@[simp] theorem macFeed_scCount (bs : Bytes) : (macFeed bs s).scCount = s.scCount := rfl
@[simp] theorem macFeed_scTags (bs : Bytes) : (macFeed bs s).scTags = s.scTags := rfl
@[simp] theorem macFeed_pend (bs : Bytes) : (macFeed bs s).pend = s.pend := rfl
@[simp] theorem macFeed_tail (bs : Bytes) : (macFeed bs s).tail = s.tail := rfl
@[simp] theorem macFeed_spool (bs : Bytes) : (macFeed bs s).spool = s.spool := rfl
@[simp] theorem macFeed_consumed (bs : Bytes) : (macFeed bs s).consumed = s.consumed := rfl
@[simp] theorem macFeed_emitted (bs : Bytes) : (macFeed bs s).emitted = s.emitted := rfl
@[simp] theorem macFeed_drained (bs : Bytes) : (macFeed bs s).drained = s.drained := rfl
@[simp] theorem macFeed_finalized (bs : Bytes) : (macFeed bs s).finalized = s.finalized := rfl
@[simp] theorem macFeed_out (bs : Bytes) : (macFeed bs s).out = s.out := rfl
@[simp] theorem macFeed_sco (bs : Bytes) : (macFeed bs s).sco = s.sco := rfl
@[simp] theorem macFeed_pending (bs : Bytes) : (macFeed bs s).pending = s.pending := rfl
@[simp] theorem macFeed_replies (bs : Bytes) : (macFeed bs s).replies = s.replies := rfl

/-! R152: the write of `mac_tag` -/

@[simp] theorem macClose_params : (macClose s).params = s.params := rfl
@[simp] theorem macClose_mode : (macClose s).mode = s.mode := rfl
@[simp] theorem macClose_err : (macClose s).err = s.err := rfl
@[simp] theorem macClose_errOpc : (macClose s).errOpc = s.errOpc := rfl
@[simp] theorem macClose_keysValid : (macClose s).keysValid = s.keysValid := rfl
@[simp] theorem macClose_iv : (macClose s).iv = s.iv := rfl
@[simp] theorem macClose_cipherKey : (macClose s).cipherKey = s.cipherKey := rfl
@[simp] theorem macClose_macKey : (macClose s).macKey = s.macKey := rfl
@[simp] theorem macClose_chain : (macClose s).chain = s.chain := rfl
@[simp] theorem macClose_macSt : (macClose s).macSt = .final := rfl
@[simp] theorem macClose_macMsg : (macClose s).macMsg = s.macMsg := rfl
@[simp] theorem macClose_scSt : (macClose s).scSt = s.scSt := rfl
@[simp] theorem macClose_scEn : (macClose s).scEn = s.scEn := rfl
@[simp] theorem macClose_scBuf : (macClose s).scBuf = s.scBuf := rfl
@[simp] theorem macClose_scNext : (macClose s).scNext = s.scNext := rfl
@[simp] theorem macClose_scEnd : (macClose s).scEnd = s.scEnd := rfl
@[simp] theorem macClose_scCount : (macClose s).scCount = s.scCount := rfl
@[simp] theorem macClose_scTags : (macClose s).scTags = s.scTags := rfl
@[simp] theorem macClose_pend : (macClose s).pend = s.pend := rfl
@[simp] theorem macClose_tail : (macClose s).tail = s.tail := rfl
@[simp] theorem macClose_spool : (macClose s).spool = s.spool := rfl
@[simp] theorem macClose_consumed : (macClose s).consumed = s.consumed := rfl
@[simp] theorem macClose_emitted : (macClose s).emitted = s.emitted := rfl
@[simp] theorem macClose_drained : (macClose s).drained = s.drained := rfl
@[simp] theorem macClose_finalized : (macClose s).finalized = s.finalized := rfl
@[simp] theorem macClose_out : (macClose s).out = s.out := rfl
@[simp] theorem macClose_sco : (macClose s).sco = s.sco := rfl
@[simp] theorem macClose_pending : (macClose s).pending = s.pending := rfl
@[simp] theorem macClose_replies : (macClose s).replies = s.replies := rfl

/-! R170: `sc_init` -/

@[simp] theorem scInit_params : (scInit s).params = s.params := rfl
@[simp] theorem scInit_mode : (scInit s).mode = s.mode := rfl
@[simp] theorem scInit_err : (scInit s).err = s.err := rfl
@[simp] theorem scInit_errOpc : (scInit s).errOpc = s.errOpc := rfl
@[simp] theorem scInit_keysValid : (scInit s).keysValid = s.keysValid := rfl
@[simp] theorem scInit_iv : (scInit s).iv = s.iv := rfl
@[simp] theorem scInit_cipherKey : (scInit s).cipherKey = s.cipherKey := rfl
@[simp] theorem scInit_macKey : (scInit s).macKey = s.macKey := rfl
@[simp] theorem scInit_chain : (scInit s).chain = s.chain := rfl
@[simp] theorem scInit_macSt : (scInit s).macSt = s.macSt := rfl
@[simp] theorem scInit_macMsg : (scInit s).macMsg = s.macMsg := rfl
@[simp] theorem scInit_scSt : (scInit s).scSt = .active := rfl
@[simp] theorem scInit_scEn : (scInit s).scEn = s.scEn := rfl
@[simp] theorem scInit_scBuf : (scInit s).scBuf = [] := rfl
@[simp] theorem scInit_scNext : (scInit s).scNext = 0 := rfl
@[simp] theorem scInit_scEnd : (scInit s).scEnd = 0 := rfl
@[simp] theorem scInit_scCount : (scInit s).scCount = 0 := rfl
@[simp] theorem scInit_scTags : (scInit s).scTags = [] := rfl
@[simp] theorem scInit_pend : (scInit s).pend = s.pend := rfl
@[simp] theorem scInit_tail : (scInit s).tail = s.tail := rfl
@[simp] theorem scInit_spool : (scInit s).spool = s.spool := rfl
@[simp] theorem scInit_consumed : (scInit s).consumed = s.consumed := rfl
@[simp] theorem scInit_emitted : (scInit s).emitted = s.emitted := rfl
@[simp] theorem scInit_drained : (scInit s).drained = s.drained := rfl
@[simp] theorem scInit_finalized : (scInit s).finalized = s.finalized := rfl
@[simp] theorem scInit_out : (scInit s).out = s.out := rfl
@[simp] theorem scInit_sco : (scInit s).sco = s.sco := rfl
@[simp] theorem scInit_pending : (scInit s).pending = s.pending := rfl
@[simp] theorem scInit_replies : (scInit s).replies = s.replies := rfl

/-! R173: the release of the tags -/

@[simp] theorem scRelease_params : (scRelease s).params = s.params := rfl
@[simp] theorem scRelease_mode : (scRelease s).mode = s.mode := rfl
@[simp] theorem scRelease_err : (scRelease s).err = s.err := rfl
@[simp] theorem scRelease_errOpc : (scRelease s).errOpc = s.errOpc := rfl
@[simp] theorem scRelease_keysValid : (scRelease s).keysValid = s.keysValid := rfl
@[simp] theorem scRelease_iv : (scRelease s).iv = s.iv := rfl
@[simp] theorem scRelease_cipherKey : (scRelease s).cipherKey = s.cipherKey := rfl
@[simp] theorem scRelease_macKey : (scRelease s).macKey = s.macKey := rfl
@[simp] theorem scRelease_chain : (scRelease s).chain = s.chain := rfl
@[simp] theorem scRelease_macSt : (scRelease s).macSt = s.macSt := rfl
@[simp] theorem scRelease_macMsg : (scRelease s).macMsg = s.macMsg := rfl
@[simp] theorem scRelease_scSt : (scRelease s).scSt = .final := rfl
@[simp] theorem scRelease_scEn : (scRelease s).scEn = s.scEn := rfl
@[simp] theorem scRelease_scBuf : (scRelease s).scBuf = s.scBuf := rfl
@[simp] theorem scRelease_scNext : (scRelease s).scNext = s.scNext := rfl
@[simp] theorem scRelease_scEnd : (scRelease s).scEnd = s.scEnd := rfl
@[simp] theorem scRelease_scCount : (scRelease s).scCount = s.scCount := rfl
@[simp] theorem scRelease_scTags : (scRelease s).scTags = [] := rfl
@[simp] theorem scRelease_pend : (scRelease s).pend = s.pend := rfl
@[simp] theorem scRelease_tail : (scRelease s).tail = s.tail := rfl
@[simp] theorem scRelease_spool : (scRelease s).spool = s.spool := rfl
@[simp] theorem scRelease_consumed : (scRelease s).consumed = s.consumed := rfl
@[simp] theorem scRelease_emitted : (scRelease s).emitted = s.emitted := rfl
@[simp] theorem scRelease_drained : (scRelease s).drained = s.drained := rfl
@[simp] theorem scRelease_finalized : (scRelease s).finalized = s.finalized := rfl
@[simp] theorem scRelease_out : (scRelease s).out = s.out := rfl
@[simp] theorem scRelease_sco : (scRelease s).sco = s.sco ++ s.scTags := rfl
@[simp] theorem scRelease_pending : (scRelease s).pending = s.pending := rfl
@[simp] theorem scRelease_replies : (scRelease s).replies = s.replies := rfl

/-! R194: `end_pipeline` -/

@[simp] theorem endPipeline_params : (endPipeline s).params = s.params := rfl
@[simp] theorem endPipeline_mode : (endPipeline s).mode = .idle := rfl
@[simp] theorem endPipeline_err : (endPipeline s).err = s.err := rfl
@[simp] theorem endPipeline_errOpc : (endPipeline s).errOpc = s.errOpc := rfl
@[simp] theorem endPipeline_keysValid : (endPipeline s).keysValid = false := rfl
@[simp] theorem endPipeline_iv : (endPipeline s).iv = zeros 16 := rfl
@[simp] theorem endPipeline_cipherKey : (endPipeline s).cipherKey = zeros 32 := rfl
@[simp] theorem endPipeline_macKey : (endPipeline s).macKey = zeros 32 := rfl
@[simp] theorem endPipeline_chain : (endPipeline s).chain = zeros 16 := rfl
@[simp] theorem endPipeline_macSt : (endPipeline s).macSt = .none := rfl
@[simp] theorem endPipeline_macMsg : (endPipeline s).macMsg = [] := rfl
@[simp] theorem endPipeline_scSt : (endPipeline s).scSt = .none := rfl
@[simp] theorem endPipeline_scEn : (endPipeline s).scEn = false := rfl
@[simp] theorem endPipeline_scBuf : (endPipeline s).scBuf = [] := rfl
@[simp] theorem endPipeline_scNext : (endPipeline s).scNext = s.scNext := rfl
@[simp] theorem endPipeline_scEnd : (endPipeline s).scEnd = s.scEnd := rfl
@[simp] theorem endPipeline_scCount : (endPipeline s).scCount = s.scCount := rfl
@[simp] theorem endPipeline_scTags : (endPipeline s).scTags = [] := rfl
@[simp] theorem endPipeline_pend : (endPipeline s).pend = [] := rfl
@[simp] theorem endPipeline_tail : (endPipeline s).tail = [] := rfl
@[simp] theorem endPipeline_spool : (endPipeline s).spool = [] := rfl
@[simp] theorem endPipeline_consumed : (endPipeline s).consumed = s.consumed := rfl
@[simp] theorem endPipeline_emitted : (endPipeline s).emitted = s.emitted := rfl
@[simp] theorem endPipeline_drained : (endPipeline s).drained = true := rfl
@[simp] theorem endPipeline_finalized : (endPipeline s).finalized = true := rfl
@[simp] theorem endPipeline_out : (endPipeline s).out = s.out := rfl
@[simp] theorem endPipeline_sco : (endPipeline s).sco = s.sco := rfl
@[simp] theorem endPipeline_pending : (endPipeline s).pending = s.pending := rfl
@[simp] theorem endPipeline_replies : (endPipeline s).replies = s.replies := rfl

/-! R232: `ReadReg` -/

@[simp] theorem replyReg_params (v : Word) : (replyReg v s).params = s.params := rfl
@[simp] theorem replyReg_mode (v : Word) : (replyReg v s).mode = s.mode := rfl
@[simp] theorem replyReg_err (v : Word) : (replyReg v s).err = s.err := rfl
@[simp] theorem replyReg_errOpc (v : Word) : (replyReg v s).errOpc = s.errOpc := rfl
@[simp] theorem replyReg_keysValid (v : Word) : (replyReg v s).keysValid = s.keysValid := rfl
@[simp] theorem replyReg_iv (v : Word) : (replyReg v s).iv = s.iv := rfl
@[simp] theorem replyReg_cipherKey (v : Word) : (replyReg v s).cipherKey = s.cipherKey := rfl
@[simp] theorem replyReg_macKey (v : Word) : (replyReg v s).macKey = s.macKey := rfl
@[simp] theorem replyReg_chain (v : Word) : (replyReg v s).chain = s.chain := rfl
@[simp] theorem replyReg_macSt (v : Word) : (replyReg v s).macSt = s.macSt := rfl
@[simp] theorem replyReg_macMsg (v : Word) : (replyReg v s).macMsg = s.macMsg := rfl
@[simp] theorem replyReg_scSt (v : Word) : (replyReg v s).scSt = s.scSt := rfl
@[simp] theorem replyReg_scEn (v : Word) : (replyReg v s).scEn = s.scEn := rfl
@[simp] theorem replyReg_scBuf (v : Word) : (replyReg v s).scBuf = s.scBuf := rfl
@[simp] theorem replyReg_scNext (v : Word) : (replyReg v s).scNext = s.scNext := rfl
@[simp] theorem replyReg_scEnd (v : Word) : (replyReg v s).scEnd = s.scEnd := rfl
@[simp] theorem replyReg_scCount (v : Word) : (replyReg v s).scCount = s.scCount := rfl
@[simp] theorem replyReg_scTags (v : Word) : (replyReg v s).scTags = s.scTags := rfl
@[simp] theorem replyReg_pend (v : Word) : (replyReg v s).pend = s.pend := rfl
@[simp] theorem replyReg_tail (v : Word) : (replyReg v s).tail = s.tail := rfl
@[simp] theorem replyReg_spool (v : Word) : (replyReg v s).spool = s.spool := rfl
@[simp] theorem replyReg_consumed (v : Word) : (replyReg v s).consumed = s.consumed := rfl
@[simp] theorem replyReg_emitted (v : Word) : (replyReg v s).emitted = s.emitted := rfl
@[simp] theorem replyReg_drained (v : Word) : (replyReg v s).drained = s.drained := rfl
@[simp] theorem replyReg_finalized (v : Word) : (replyReg v s).finalized = s.finalized := rfl
@[simp] theorem replyReg_out (v : Word) : (replyReg v s).out = s.out := rfl
@[simp] theorem replyReg_sco (v : Word) : (replyReg v s).sco = s.sco := rfl
@[simp] theorem replyReg_pending (v : Word) : (replyReg v s).pending = s.pending := rfl
@[simp] theorem replyReg_replies (v : Word) : (replyReg v s).replies = s.replies ++ [.reg v] := rfl

/-! R234: `DrainOut` -/

@[simp] theorem drainOut_params (n : Nat) : (drainOut n s).params = s.params := rfl
@[simp] theorem drainOut_mode (n : Nat) : (drainOut n s).mode = s.mode := rfl
@[simp] theorem drainOut_err (n : Nat) : (drainOut n s).err = s.err := rfl
@[simp] theorem drainOut_errOpc (n : Nat) : (drainOut n s).errOpc = s.errOpc := rfl
@[simp] theorem drainOut_keysValid (n : Nat) : (drainOut n s).keysValid = s.keysValid := rfl
@[simp] theorem drainOut_iv (n : Nat) : (drainOut n s).iv = s.iv := rfl
@[simp] theorem drainOut_cipherKey (n : Nat) : (drainOut n s).cipherKey = s.cipherKey := rfl
@[simp] theorem drainOut_macKey (n : Nat) : (drainOut n s).macKey = s.macKey := rfl
@[simp] theorem drainOut_chain (n : Nat) : (drainOut n s).chain = s.chain := rfl
@[simp] theorem drainOut_macSt (n : Nat) : (drainOut n s).macSt = s.macSt := rfl
@[simp] theorem drainOut_macMsg (n : Nat) : (drainOut n s).macMsg = s.macMsg := rfl
@[simp] theorem drainOut_scSt (n : Nat) : (drainOut n s).scSt = s.scSt := rfl
@[simp] theorem drainOut_scEn (n : Nat) : (drainOut n s).scEn = s.scEn := rfl
@[simp] theorem drainOut_scBuf (n : Nat) : (drainOut n s).scBuf = s.scBuf := rfl
@[simp] theorem drainOut_scNext (n : Nat) : (drainOut n s).scNext = s.scNext := rfl
@[simp] theorem drainOut_scEnd (n : Nat) : (drainOut n s).scEnd = s.scEnd := rfl
@[simp] theorem drainOut_scCount (n : Nat) : (drainOut n s).scCount = s.scCount := rfl
@[simp] theorem drainOut_scTags (n : Nat) : (drainOut n s).scTags = s.scTags := rfl
@[simp] theorem drainOut_pend (n : Nat) : (drainOut n s).pend = s.pend := rfl
@[simp] theorem drainOut_tail (n : Nat) : (drainOut n s).tail = s.tail := rfl
@[simp] theorem drainOut_spool (n : Nat) : (drainOut n s).spool = s.spool := rfl
@[simp] theorem drainOut_consumed (n : Nat) : (drainOut n s).consumed = s.consumed := rfl
@[simp] theorem drainOut_emitted (n : Nat) : (drainOut n s).emitted = s.emitted := rfl
@[simp] theorem drainOut_drained (n : Nat) : (drainOut n s).drained = s.drained := rfl
@[simp] theorem drainOut_finalized (n : Nat) : (drainOut n s).finalized = s.finalized := rfl
@[simp] theorem drainOut_out (n : Nat) : (drainOut n s).out = s.out.drop n := rfl
@[simp] theorem drainOut_sco (n : Nat) : (drainOut n s).sco = s.sco := rfl
@[simp] theorem drainOut_pending (n : Nat) : (drainOut n s).pending = s.pending := rfl
@[simp] theorem drainOut_replies (n : Nat) : (drainOut n s).replies = s.replies ++ [.outBytes (s.out.take n)] := rfl

/-! R234: `DrainSco` -/

@[simp] theorem drainSco_params (n : Nat) : (drainSco n s).params = s.params := rfl
@[simp] theorem drainSco_mode (n : Nat) : (drainSco n s).mode = s.mode := rfl
@[simp] theorem drainSco_err (n : Nat) : (drainSco n s).err = s.err := rfl
@[simp] theorem drainSco_errOpc (n : Nat) : (drainSco n s).errOpc = s.errOpc := rfl
@[simp] theorem drainSco_keysValid (n : Nat) : (drainSco n s).keysValid = s.keysValid := rfl
@[simp] theorem drainSco_iv (n : Nat) : (drainSco n s).iv = s.iv := rfl
@[simp] theorem drainSco_cipherKey (n : Nat) : (drainSco n s).cipherKey = s.cipherKey := rfl
@[simp] theorem drainSco_macKey (n : Nat) : (drainSco n s).macKey = s.macKey := rfl
@[simp] theorem drainSco_chain (n : Nat) : (drainSco n s).chain = s.chain := rfl
@[simp] theorem drainSco_macSt (n : Nat) : (drainSco n s).macSt = s.macSt := rfl
@[simp] theorem drainSco_macMsg (n : Nat) : (drainSco n s).macMsg = s.macMsg := rfl
@[simp] theorem drainSco_scSt (n : Nat) : (drainSco n s).scSt = s.scSt := rfl
@[simp] theorem drainSco_scEn (n : Nat) : (drainSco n s).scEn = s.scEn := rfl
@[simp] theorem drainSco_scBuf (n : Nat) : (drainSco n s).scBuf = s.scBuf := rfl
@[simp] theorem drainSco_scNext (n : Nat) : (drainSco n s).scNext = s.scNext := rfl
@[simp] theorem drainSco_scEnd (n : Nat) : (drainSco n s).scEnd = s.scEnd := rfl
@[simp] theorem drainSco_scCount (n : Nat) : (drainSco n s).scCount = s.scCount := rfl
@[simp] theorem drainSco_scTags (n : Nat) : (drainSco n s).scTags = s.scTags := rfl
@[simp] theorem drainSco_pend (n : Nat) : (drainSco n s).pend = s.pend := rfl
@[simp] theorem drainSco_tail (n : Nat) : (drainSco n s).tail = s.tail := rfl
@[simp] theorem drainSco_spool (n : Nat) : (drainSco n s).spool = s.spool := rfl
@[simp] theorem drainSco_consumed (n : Nat) : (drainSco n s).consumed = s.consumed := rfl
@[simp] theorem drainSco_emitted (n : Nat) : (drainSco n s).emitted = s.emitted := rfl
@[simp] theorem drainSco_drained (n : Nat) : (drainSco n s).drained = s.drained := rfl
@[simp] theorem drainSco_finalized (n : Nat) : (drainSco n s).finalized = s.finalized := rfl
@[simp] theorem drainSco_out (n : Nat) : (drainSco n s).out = s.out := rfl
@[simp] theorem drainSco_sco (n : Nat) : (drainSco n s).sco = s.sco.drop n := rfl
@[simp] theorem drainSco_pending (n : Nat) : (drainSco n s).pending = s.pending := rfl
@[simp] theorem drainSco_replies (n : Nat) : (drainSco n s).replies = s.replies ++ [.scoBytes (s.sco.take n)] := rfl

/-! R231, R270: `ABORT` and reset -/

@[simp] theorem resetState_params : (resetState s).params = s.params := rfl
@[simp] theorem resetState_mode : (resetState s).mode = .idle := rfl
@[simp] theorem resetState_err : (resetState s).err = none := rfl
@[simp] theorem resetState_errOpc : (resetState s).errOpc = 0 := rfl
@[simp] theorem resetState_keysValid : (resetState s).keysValid = false := rfl
@[simp] theorem resetState_iv : (resetState s).iv = Vector.replicate 16 0 := rfl
@[simp] theorem resetState_cipherKey : (resetState s).cipherKey = Vector.replicate 32 0 := rfl
@[simp] theorem resetState_macKey : (resetState s).macKey = Vector.replicate 32 0 := rfl
@[simp] theorem resetState_chain : (resetState s).chain = Vector.replicate 16 0 := rfl
@[simp] theorem resetState_macSt : (resetState s).macSt = .none := rfl
@[simp] theorem resetState_macMsg : (resetState s).macMsg = [] := rfl
@[simp] theorem resetState_scSt : (resetState s).scSt = .none := rfl
@[simp] theorem resetState_scEn : (resetState s).scEn = false := rfl
@[simp] theorem resetState_scBuf : (resetState s).scBuf = [] := rfl
@[simp] theorem resetState_scNext : (resetState s).scNext = 0 := rfl
@[simp] theorem resetState_scEnd : (resetState s).scEnd = 0 := rfl
@[simp] theorem resetState_scCount : (resetState s).scCount = 0 := rfl
@[simp] theorem resetState_scTags : (resetState s).scTags = [] := rfl
@[simp] theorem resetState_pend : (resetState s).pend = [] := rfl
@[simp] theorem resetState_tail : (resetState s).tail = [] := rfl
@[simp] theorem resetState_spool : (resetState s).spool = [] := rfl
@[simp] theorem resetState_consumed : (resetState s).consumed = 0 := rfl
@[simp] theorem resetState_emitted : (resetState s).emitted = 0 := rfl
@[simp] theorem resetState_drained : (resetState s).drained = false := rfl
@[simp] theorem resetState_finalized : (resetState s).finalized = false := rfl
@[simp] theorem resetState_out : (resetState s).out = [] := rfl
@[simp] theorem resetState_sco : (resetState s).sco = [] := rfl
@[simp] theorem resetState_pending : (resetState s).pending = s.pending := rfl
@[simp] theorem resetState_replies : (resetState s).replies = s.replies := rfl

end Sys2Proof.Machine
end

