-- ==== Sys2Proof/Laws/Tags.lean ====
section
/-! SUPPORT. Tags and the constant-time comparison (R150, R151), and the key schedule's lengths (R100, R101). -/

namespace Sys2Proof.Machine

open Sys2Proof

@[simp] theorem length_tag10 (k : Key) (m : Bytes) : (tag10 k m).length = 10 := by simp [tag10, Config.tagLen]

theorem or_eq_zero_iff {n : Nat} (a b : BitVec n) : a ||| b = 0#n ↔ a = 0#n ∧ b = 0#n := by
  constructor
  · intro h
    constructor <;>
    · apply BitVec.eq_of_getLsbD_eq
      intro i hi
      have := congrArg (fun v => v.getLsbD i) h
      simp at this
      simp [this]
  · rintro ⟨rfl, rfl⟩; simp

theorem foldl_or_eq_zero (l : List Byte) (d : Byte) : l.foldl (· ||| ·) d = 0#8 ↔ d = 0#8 ∧ ∀ x ∈ l, x = 0#8 := by
  induction l generalizing d with
  | nil => simp
  | cons x l ih => rw [List.foldl_cons, ih, or_eq_zero_iff]; simp [and_assoc]

/-- The OR of all differences is 0 exactly when two strings of one length are equal. -/
theorem tagDiff_eq_zero {a b : Bytes} (h : a.length = b.length) : tagDiff a b = 0#8 ↔ a = b := by
  rw [tagDiff, show (0 : Byte) = 0#8 from rfl, foldl_or_eq_zero]
  induction a generalizing b with
  | nil => cases b with
    | nil => simp
    | cons y b => simp at h
  | cons x a ih => cases b with
    | nil => simp at h
    | cons y b =>
      have := @ih b (by simpa using h)
      simp only [true_and] at this
      rw [List.zipWith_cons_cons, List.forall_mem_cons, this, List.cons.injEq]
      simp

/-- "The result is `a = b`" (R151). -/
theorem ctEq10_iff (a b : Bytes) : ctEq10 a b = true ↔ a = b ∧ a.length = 10 := by
  simp only [ctEq10, Config.tagLen, Bool.and_eq_true, beq_iff_eq]
  constructor
  · rintro ⟨⟨h1, h2⟩, h3⟩
    exact ⟨(tagDiff_eq_zero (by rw [h1, h2])).1 h3, h1⟩
  · rintro ⟨rfl, h⟩
    exact ⟨⟨h, h⟩, (tagDiff_eq_zero rfl).2 rfl⟩

/-- Comparing a computed tag with any byte string is comparing for equality. -/
theorem ctEq10_tag10 (k : Key) (m b : Bytes) : ctEq10 (tag10 k m) b = true ↔ b = tag10 k m := by
  rw [ctEq10_iff]; simp [eq_comm]

theorem length_hkdfLoop (prk info : Bytes) (n i : Nat) (t : Bytes) : (hkdfLoop prk info n i t).length = 32 * n := by
  induction n generalizing i t with
  | zero => rfl
  | succ n ih => simp [hkdfLoop, ih]; omega

@[simp] theorem length_hkdfExpand (prk info : Bytes) : (hkdfExpand prk info 112).length = 112 := by
  simp [hkdfExpand, length_hkdfLoop]

/-- The key set of a string of at least 80 bytes is its first 80 bytes. -/
theorem keySetOf_bytes {okm : Bytes} (h : 80 ≤ okm.length) : (keySetOf okm).bytes = okm.take 80 := by
  simp only [KeySet.bytes, keySetOf]
  rw [bytesOf_octetsOf (by rw [length_slice]; omega), bytesOf_octetsOf (by rw [length_slice]; omega),
    bytesOf_octetsOf (by rw [length_slice]; omega), slice_zero, take_append_slice _ (by omega),
    take_append_slice _ (by omega)]

/-- The derived key set is the first 80 bytes of the expansion (R101). -/
theorem derivedKeys_bytes (secret : Bytes) (mt : MediaType) :
    (derivedKeys secret mt).bytes = (hkdfExpand secret (Config.label mt) 112).take 80 :=
  keySetOf_bytes (by simp [Config.okmLen])

/-- The four labels are pairwise distinct (R102). -/
theorem label_injective {a b : MediaType} (h : Config.label a = Config.label b) : a = b := by
  cases a <;> cases b <;> simp_all [Config.label]

end Sys2Proof.Machine
end

