-- ==== Sys2Proof/Laws/Windows.lean ====
section
/-! SUPPORT. The sidecar's window loop (R171) in closed form and under concatenation. -/

namespace Sys2Proof.Machine

open Sys2Proof

@[simp] theorem windowTags_zero (mk : Key) (c : Bytes) : windowTags mk c 0 = [] := rfl

@[simp] theorem length_windowTags (mk : Key) (c : Bytes) (n : Nat) : (windowTags mk c n).length = 10 * n := by
  induction n with
  | zero => rfl
  | succ n ih => rw [windowTags, List.range_succ] at *; simp_all [windowTag]; omega

theorem windowTags_add (mk : Key) (c : Bytes) (m n : Nat) :
    windowTags mk c (m + n) = windowTags mk c m ++ ((List.range n).map fun i => windowTag mk c (m + i)).flatten := by
  simp only [windowTags, List.range_add, List.map_append, List.flatten_append, List.map_map]
  rfl

/-- A full window does not see what follows it. -/
theorem windowTag_append {mk : Key} {a : Bytes} (b : Bytes) {i : Nat} (h : i * 65536 + 65552 ≤ a.length) :
    windowTag mk (a ++ b) i = windowTag mk a i := by
  have h4 : i * 65536 ≤ a.length := Nat.le_trans (Nat.le_add_right _ _) h
  have h1 : min (a ++ b).length (i * 65536 + 65552) = i * 65536 + 65552 :=
    Nat.min_eq_right (by rw [List.length_append]; exact Nat.le_trans h (Nat.le_add_right _ _))
  have h2 : min a.length (i * 65536 + 65552) = i * 65536 + 65552 := Nat.min_eq_right h
  have h3 : i * 65536 + 65552 - i * 65536 ≤ (a.drop (i * 65536)).length := by
    rw [List.length_drop]
    exact Nat.sub_le_sub_right h _
  have e : slice (a ++ b) (i * 65536) (i * 65536 + 65552) = slice a (i * 65536) (i * 65536 + 65552) := by
    unfold slice
    rw [List.drop_append_of_le_length h4, List.take_append_of_le_length h3]
  rw [windowTag, windowTag, h1, h2, e]

/-- Window `m + i` is window `i` of what is left after `m` strides. -/
theorem windowTag_drop (mk : Key) (c : Bytes) (m i : Nat) (h : 65536 * m ≤ c.length) :
    windowTag mk (c.drop (65536 * m)) i = windowTag mk c (m + i) := by
  have e : slice (c.drop (65536 * m)) (i * 65536) (min (c.drop (65536 * m)).length (i * 65536 + 65552)) =
      slice c ((m + i) * 65536) (min c.length ((m + i) * 65536 + 65552)) := by
    simp only [slice, List.drop_drop, List.length_drop]
    have e1 : 65536 * m + i * 65536 = (m + i) * 65536 := by omega
    rw [e1]
    congr 1
    omega
  simp only [windowTag, e]

theorem fullWindows_mono {m n : Nat} (h : m ≤ n) : fullWindows m ≤ fullWindows n :=
  Nat.div_le_div_right (by omega)

theorem fullWindows_fit (n : Nat) : 65536 * fullWindows n ≤ n := by
  unfold fullWindows; omega

/-- Each of the full windows lies inside the buffer. -/
theorem fullWindows_full {n i : Nat} (h : i < fullWindows n) : i * 65536 + 65552 ≤ n := by
  unfold fullWindows at h; omega

/-- The full windows of a buffer that grows: those there were, and those of what was left with what came. -/
theorem fullWindows_grow (m n : Nat) : fullWindows (m + n) = fullWindows m + fullWindows (m - 65536 * fullWindows m + n) := by
  unfold fullWindows; omega

/-- The full windows of a buffer that grows: the tags. -/
theorem windowTags_grow (mk : Key) (a b : Bytes) :
    windowTags mk (a ++ b) (fullWindows (a ++ b).length) =
      windowTags mk a (fullWindows a.length) ++
        windowTags mk (a.drop (65536 * fullWindows a.length) ++ b)
          (fullWindows (a.drop (65536 * fullWindows a.length) ++ b).length) := by
  have hf := fullWindows_fit a.length
  have e : fullWindows (a ++ b).length =
      fullWindows a.length + fullWindows (a.drop (65536 * fullWindows a.length) ++ b).length := by
    simp only [List.length_append, List.length_drop]
    exact fullWindows_grow _ _
  rw [e, windowTags_add]
  congr 1
  · rw [windowTags, windowTags]
    congr 1
    apply List.map_congr_left
    intro i hi
    exact windowTag_append b (fullWindows_full (List.mem_range.1 hi))
  · rw [windowTags]
    congr 1
    apply List.map_congr_left
    intro i _
    rw [← List.drop_append_of_le_length hf, windowTag_drop _ _ _ _ (by rw [List.length_append]; omega)]

/-- What the loop does with fuel enough. -/
theorem tagLoop_eq (mk : Key) (fuel : Nat) (buf : Bytes) (h : fullWindows buf.length ≤ fuel) :
    tagLoop mk fuel buf =
      { tags := windowTags mk buf (fullWindows buf.length), count := fullWindows buf.length
        rest := buf.drop (65536 * fullWindows buf.length) } := by
  induction fuel generalizing buf with
  | zero =>
    have : fullWindows buf.length = 0 := by omega
    simp [tagLoop, this]
  | succ fuel ih =>
    by_cases hl : 65552 ≤ buf.length
    · have e : fullWindows buf.length = 1 + fullWindows (buf.drop 65536).length := by
        simp only [fullWindows, List.length_drop]; omega
      have hw : windowTag mk buf 0 = tag10 mk (buf.take 65552) := by
        have : min buf.length (0 * 65536 + 65552) = 65552 := by omega
        simp only [windowTag, this, Nat.zero_mul, slice_zero]
      have ht : windowTags mk buf (fullWindows buf.length) =
          tag10 mk (buf.take 65552) ++ windowTags mk (buf.drop 65536) (fullWindows (buf.drop 65536).length) := by
        rw [e, windowTags_add]
        rw [show windowTags mk buf 1 = tag10 mk (buf.take 65552) by
          rw [windowTags, List.range_one, List.map_cons, List.map_nil, List.flatten_cons, List.flatten_nil, hw,
            List.append_nil]]
        congr 1
        · rw [windowTags]
          congr 1
          apply List.map_congr_left
          intro i _
          rw [← windowTag_drop _ _ 1 _ (by omega)]
      have hd : buf.drop (65536 * fullWindows buf.length) =
          (buf.drop 65536).drop (65536 * fullWindows (buf.drop 65536).length) := by
        rw [List.drop_drop, e]; congr 1; omega
      have hc : fullWindows buf.length = fullWindows (buf.drop 65536).length + 1 := by omega
      rw [tagLoop, if_pos (by simpa [Config.winLen] using hl)]
      simp only [Config.winStride]
      rw [ih _ (by omega), ht, hd, slice_zero, Config.winLen]
      simp only [hc]
    · have : fullWindows buf.length = 0 := by simp only [fullWindows]; omega
      rw [tagLoop, if_neg (by simpa [Config.winLen] using hl)]
      simp [this]

/-- What the window loop of R171 does: the full windows are tagged in order, and the bytes from the last window start on
are left. -/
theorem tagWindows_eq (mk : Key) (buf : Bytes) :
    tagWindows mk buf =
      { tags := windowTags mk buf (fullWindows buf.length), count := fullWindows buf.length
        rest := buf.drop (65536 * fullWindows buf.length) } :=
  tagLoop_eq _ _ _ (by simp only [fullWindows, Config.winStride]; omega)

/-- What the loop leaves is shorter than a window (R171). -/
theorem length_rest_lt (n : Nat) : n - 65536 * fullWindows n < 65552 := by
  unfold fullWindows; omega

end Sys2Proof.Machine
end

