-- ==== Sys2Proof/Laws/Ops.lean ====
section
/-! SUPPORT. Once for each shared operation, what it can do: the primitives `require` and 64-bit counters, the wrapper
every command runs in, and the sidecar and delivery functions in closed form. Later proofs cite these instead of
unfolding the operations. -/

namespace Sys2Proof.Machine

open Sys2Proof

/-! ### Pseudocode -/

@[simp] theorem bind_ok {α β : Type} (a : α) (f : α → Result β) : ((Except.ok a : Result α) >>= f) = f a := rfl

@[simp] theorem bind_error {α β : Type} (e : Stop) (f : α → Result β) :
    ((Except.error e : Result α) >>= f) = .error e := rfl

@[simp] theorem pure_eq_ok {α : Type} (a : α) : (pure a : Result α) = .ok a := rfl

/-- The result of a sequence comes from both parts. -/
theorem bind_eq_ok {α β : Type} {x : Result α} {f : α → Result β} {b : β} :
    x >>= f = .ok b ↔ ∃ a, x = .ok a ∧ f a = .ok b := by
  cases x <;> simp

theorem bind_eq_error {α β : Type} {x : Result α} {f : α → Result β} {e : Stop} :
    x >>= f = .error e ↔ x = .error e ∨ ∃ a, x = .ok a ∧ f a = .error e := by
  cases x <;> simp

theorem require_true (e : EngineError) : require true e = .ok () := rfl

theorem require_false (e : EngineError) : require false e = .error (.raise e) := rfl

@[simp] theorem require_eq_ok {c : Bool} {e : EngineError} {u : Unit} : require c e = .ok u ↔ c = true := by
  cases c <;> simp [require]

@[simp] theorem require_eq_error {c : Bool} {e : EngineError} {x : Stop} :
    require c e = .error x ↔ c = false ∧ x = .raise e := by
  cases c <;> simp [require, eq_comm]

theorem toCounter_of_lt {n : Nat} (h : n < 2 ^ 64) : toCounter n = .ok (BitVec.ofNat 64 n) := by
  rw [toCounter, if_pos (by simpa [Config.counterLimit] using h)]

theorem toCounter_of_le {n : Nat} (h : 2 ^ 64 ≤ n) : toCounter n = .error (.refuse .counterOverflow) := by
  rw [toCounter, if_neg (by simp only [Config.counterLimit]; omega)]

theorem bind_toCounter_of_lt {α : Type} {n : Nat} (h : n < 2 ^ 64) (f : Counter → Result α) :
    toCounter n >>= f = f (BitVec.ofNat 64 n) := by rw [toCounter_of_lt h]; rfl

theorem bind_toCounter_of_le {α : Type} {n : Nat} (h : 2 ^ 64 ≤ n) (f : Counter → Result α) :
    toCounter n >>= f = .error (.refuse .counterOverflow) := by rw [toCounter_of_le h]; rfl

theorem toCounter_eq_ok {n : Nat} {c : Counter} : toCounter n = .ok c ↔ n < 2 ^ 64 ∧ c = BitVec.ofNat 64 n := by
  by_cases h : n < 2 ^ 64
  · simp only [toCounter_of_lt h, Except.ok.injEq, h, true_and]; exact eq_comm
  · rw [toCounter_of_le (by omega)]; simp only [reduceCtorEq, h, false_and]

theorem toCounter_eq_error {n : Nat} {x : Stop} :
    toCounter n = .error x ↔ 2 ^ 64 ≤ n ∧ x = .refuse .counterOverflow := by
  by_cases h : n < 2 ^ 64
  · rw [toCounter_of_lt h]; simp; omega
  · rw [toCounter_of_le (by omega)]; simp [eq_comm]; omega

/-- A counter that was written holds the number, unwrapped (R9). -/
theorem toCounter_toNat {n : Nat} {c : Counter} (h : toCounter n = .ok c) : c.toNat = n := by
  obtain ⟨h1, rfl⟩ := toCounter_eq_ok.1 h
  simp; omega

/-- A pseudocode step that raises nothing of its own. -/
theorem toCounter_ne_raise {n : Nat} {e : EngineError} : toCounter n ≠ .error (.raise e) := by
  intro h; have := (toCounter_eq_error.1 h).2; cases this

/-! ### The wrapper (R87, R241, R242) -/

/-- In the error state a command has no effect (R242). -/
theorem runCommand_of_err {op : Opcode} {s : State} {body : State → Result State} (h : s.err ≠ none) :
    runCommand op s body = .next s := by
  rw [runCommand, if_pos (by cases hs : s.err <;> simp_all)]

/-- Where a command is accepted, its own pseudocode decides (R87). -/
theorem runCommand_of_accepts {op : Opcode} {s : State} {body : State → Result State} (h : Accepts op s) :
    runCommand op s body = finish op s (body s) := by
  obtain ⟨h1, h2, h3⟩ := h
  have hu : (!op.isUnit || s.params.unitAccess) = true := by
    cases hu : op.isUnit <;> simp_all
  simp [runCommand, h1, hu, h3, require_true]

/-- Without unit access a unit command is illegal (R86). -/
theorem runCommand_of_no_access {op : Opcode} {s : State} {body : State → Result State} (h : s.err = none)
    (hu : op.isUnit = true) (ha : s.params.unitAccess = false) :
    runCommand op s body = .next (raiseError op.code .illegalCommand s) := by
  simp [runCommand, h, hu, ha, require_false, finish]

/-- In a mode that does not allow it a command raises `SequenceError` (R88). -/
theorem runCommand_of_mode {op : Opcode} {s : State} {body : State → Result State} (h : s.err = none)
    (hu : op.isUnit = true → s.params.unitAccess = true) (hm : modeLegal op s.mode = false) :
    runCommand op s body = .next (raiseError op.code .sequenceError s) := by
  have hu : (!op.isUnit || s.params.unitAccess) = true := by
    cases hu : op.isUnit <;> simp_all
  simp [runCommand, h, hu, hm, require_false, require_true, finish]

/-- Everything a command can do: nothing in the error state; raise for want of unit access or of its mode; or what its
own pseudocode says, an error changing `ERR` and `ERR_OPC` only. -/
theorem runCommand_cases {op : Opcode} {s t : State} {body : State → Result State} (h : runCommand op s body = .next t) :
    (s.err ≠ none ∧ t = s) ∨
    (s.err = none ∧ op.isUnit = true ∧ s.params.unitAccess = false ∧ t = raiseError op.code .illegalCommand s) ∨
    (s.err = none ∧ modeLegal op s.mode = false ∧ t = raiseError op.code .sequenceError s) ∨
    (Accepts op s ∧ (body s = .ok t ∨ ∃ e, body s = .error (.raise e) ∧ t = raiseError op.code e s)) := by
  by_cases he : s.err = none
  · by_cases hu : op.isUnit = true ∧ s.params.unitAccess = false
    · rw [runCommand_of_no_access he hu.1 hu.2] at h
      exact .inr (.inl ⟨he, hu.1, hu.2, by cases h; rfl⟩)
    · have hu' : op.isUnit = true → s.params.unitAccess = true := by
        intro h1; cases ha : s.params.unitAccess <;> simp_all
      cases hm : modeLegal op s.mode with
      | false =>
        rw [runCommand_of_mode he hu' hm] at h
        exact .inr (.inr (.inl ⟨he, rfl, by cases h; rfl⟩))
      | true =>
        rw [runCommand_of_accepts ⟨he, hu', hm⟩] at h
        refine .inr (.inr (.inr ⟨⟨he, hu', hm⟩, ?_⟩))
        cases hb : body s with
        | ok s' => rw [hb] at h; cases h; exact .inl rfl
        | error x =>
          rw [hb] at h
          cases x with
          | raise e => cases h; exact .inr ⟨e, rfl, rfl⟩
          | refuse r => cases h
  · rw [runCommand_of_err he] at h
    exact .inl ⟨he, by cases h; rfl⟩

/-- A command that is refused was accepted, and its own pseudocode refused (R9). -/
theorem runCommand_refused {op : Opcode} {s : State} {r : Refusal} {body : State → Result State}
    (h : runCommand op s body = .refused r) : Accepts op s ∧ body s = .error (.refuse r) := by
  by_cases he : s.err = none
  · by_cases hu : op.isUnit = true ∧ s.params.unitAccess = false
    · rw [runCommand_of_no_access he hu.1 hu.2] at h; cases h
    · have hu' : op.isUnit = true → s.params.unitAccess = true := by
        intro h1; cases ha : s.params.unitAccess <;> simp_all
      cases hm : modeLegal op s.mode with
      | false => rw [runCommand_of_mode he hu' hm] at h; cases h
      | true =>
        rw [runCommand_of_accepts ⟨he, hu', hm⟩] at h
        refine ⟨⟨he, hu', hm⟩, ?_⟩
        cases hb : body s with
        | ok s' => rw [hb] at h; cases h
        | error x => rw [hb] at h; cases x <;> cases h; rfl
  · rw [runCommand_of_err he] at h; cases h

/-! ### Operands -/

theorem wholeBlocks_iff (p : Bytes) : wholeBlocks p = true ↔ 0 < p.length ∧ p.length % 16 = 0 := by
  simp [wholeBlocks, Config.blockLen]

/-- `derive` on a 32-byte secret (R101). -/
theorem derive_of_length {p : Bytes} (mt : MediaType) (h : p.length = 32) : derive p mt = .ok (derivedKeys p mt) := by
  simp [derive, h, Config.secretLen, require_true]

/-- `derive` on any other (R101). -/
theorem derive_of_length_ne {p : Bytes} (mt : MediaType) (h : p.length ≠ 32) :
    derive p mt = .error (.raise .invalidKeyLength) := by
  have : (p.length == Config.secretLen) = false := by simpa [Config.secretLen] using h
  simp [derive, this, require_false]

theorem derive_eq_ok {p : Bytes} {mt : MediaType} {k : KeySet} (h : derive p mt = .ok k) :
    p.length = 32 ∧ k = derivedKeys p mt := by
  by_cases hp : p.length = 32
  · rw [derive_of_length mt hp] at h; cases h; exact ⟨hp, rfl⟩
  · rw [derive_of_length_ne mt hp] at h; cases h

theorem derive_eq_error {p : Bytes} {mt : MediaType} {x : Stop} (h : derive p mt = .error x) :
    p.length ≠ 32 ∧ x = .raise .invalidKeyLength := by
  by_cases hp : p.length = 32
  · rw [derive_of_length mt hp] at h; cases h
  · rw [derive_of_length_ne mt hp] at h; cases h; exact ⟨hp, rfl⟩

/-- A live context passes, one that does not exist or is finalized raises (R154, R175). -/
theorem requireLive_eq (st : Lifecycle) : requireLive st =
    match st with
    | .none => .error (.raise .sequenceError)
    | .active => .ok ()
    | .final => .error (.raise .useAfterFinalize) := by
  cases st <;> rfl

theorem unpadOrRaise_eq_ok {x y : Bytes} : unpadOrRaise x = .ok y ↔ pkcs7Unpad x = some y := by
  unfold unpadOrRaise; cases pkcs7Unpad x <;> simp

theorem unpadOrRaise_eq_error {x : Bytes} {e : Stop} :
    unpadOrRaise x = .error e ↔ pkcs7Unpad x = none ∧ e = .raise .invalidPadding := by
  unfold unpadOrRaise; cases pkcs7Unpad x <;> simp [eq_comm]

/-! ### Sidecar (R171 to R173) -/

/-- Everything `sc_feed` can do: the closed form, or a refusal where a counter would pass 2^64 − 1. -/
theorem scFeed_eq (c : Bytes) (s : State) :
    scFeed c s = if SidecarCountersFit c s then .ok (sidecarFed c s) else .error (.refuse .counterOverflow) := by
  have hl : (s.scBuf ++ c).length = s.scBuf.length + c.length := List.length_append
  by_cases h1 : s.scEnd.toNat + c.length < 2 ^ 64
  · by_cases h2 : s.scCount.toNat + fullWindows (s.scBuf.length + c.length) < 2 ^ 64
    · by_cases h3 : s.scNext.toNat + 65536 * fullWindows (s.scBuf.length + c.length) < 2 ^ 64
      · rw [if_pos ⟨h1, h2, h3⟩]
        simp only [scFeed, tagWindows_eq, hl, Config.winStride, toCounter_of_lt h1, toCounter_of_lt h2, toCounter_of_lt h3,
          bind_ok, pure_eq_ok, sidecarFed]
      · rw [if_neg (fun h => h3 h.2.2)]
        simp only [scFeed, tagWindows_eq, hl, Config.winStride, toCounter_of_lt h1, toCounter_of_lt h2,
          toCounter_of_le (Nat.le_of_not_lt h3), bind_ok, bind_error]
    · rw [if_neg (fun h => h2 h.2.1)]
      simp only [scFeed, tagWindows_eq, hl, toCounter_of_lt h1, toCounter_of_le (Nat.le_of_not_lt h2), bind_ok, bind_error]
  · rw [if_neg (fun h => h1 h.1)]
    simp only [scFeed, toCounter_of_le (Nat.le_of_not_lt h1), bind_error]

/-- The counters fit exactly when none would overflow, which is a matter of the length fed alone (R9). -/
theorem sidecarCountersFit_iff_not_overflows {c : Bytes} {s : State} : SidecarCountersFit c s ↔ ¬ SidecarOverflows c.length s := by
  simp only [SidecarCountersFit, SidecarOverflows, not_or, Nat.not_le]

/-- Everything `sc_finalize` can do: the closed form, or a refusal where the trailing window would push the count past
2^64 − 1. -/
theorem scFinalize_eq (s : State) :
    scFinalize s = if s.scNext.toNat < s.scEnd.toNat → s.scCount.toNat + 1 < 2 ^ 64 then .ok (sidecarReleased s)
      else .error (.refuse .counterOverflow) := by
  by_cases h1 : s.scNext.toNat < s.scEnd.toNat
  · by_cases h2 : s.scCount.toNat + 1 < 2 ^ 64
    · rw [if_pos (fun _ => h2)]
      simp only [scFinalize, scFlushTrailing, h1, if_true, toCounter_of_lt h2, bind_ok, pure_eq_ok, sidecarReleased,
        scRelease, emitSco]
    · rw [if_neg (fun h => h2 (h h1))]
      simp only [scFinalize, scFlushTrailing, h1, if_true, toCounter_of_le (Nat.le_of_not_lt h2), bind_error]
  · rw [if_pos (fun h => absurd h h1)]
    simp only [scFinalize, scFlushTrailing, h1, if_false, bind_ok, pure_eq_ok, sidecarReleased, scRelease, emitSco,
      List.append_nil]

/-! ### Delivery (R191) -/

/-- The sidecar's part of a delivery, in closed form. -/
theorem scFeedIfEnabled_eq (y : Bytes) (s : State) :
    scFeedIfEnabled y s = if s.scEn = true → SidecarCountersFit y s then .ok (if s.scEn then sidecarFed y s else s)
      else .error (.refuse .counterOverflow) := by
  rw [scFeedIfEnabled, scFeed_eq]
  cases h : s.scEn with
  | false => rw [if_pos (fun h => absurd h (by decide))]; rfl
  | true =>
    by_cases hc : SidecarCountersFit y s
    · rw [if_pos rfl, if_pos hc, if_pos (fun _ => hc)]; rfl
    · rw [if_pos rfl, if_neg hc, if_neg (fun h => hc (h rfl))]

/-- Everything `enc_emit` can do: deliver to `OUT`, to the MAC and, if enabled, to the sidecar, or a refusal. -/
theorem encEmit_eq (y : Bytes) (s : State) :
    encEmit y s =
      if (s.scEn = true → SidecarCountersFit y s) ∧ s.emitted.toNat + y.length < 2 ^ 64 then
        .ok (delivered y s)
      else .error (.refuse .counterOverflow) := by
  have hf : scFeedIfEnabled y (macFeed y (emitOut y s)) = if s.scEn = true → SidecarCountersFit y s then
      .ok (if s.scEn then sidecarFed y (macFeed y (emitOut y s)) else macFeed y (emitOut y s))
    else .error (.refuse .counterOverflow) := scFeedIfEnabled_eq y _
  rw [encEmit, hf]
  by_cases h1 : s.scEn = true → SidecarCountersFit y s
  · rw [if_pos h1]
    by_cases h2 : s.emitted.toNat + y.length < 2 ^ 64
    · rw [if_pos (And.intro h1 h2)]
      by_cases he' : s.scEn = true
      · simp only [delivered, if_pos he']; exact bind_toCounter_of_lt h2 _
      · simp only [delivered, if_neg he']; exact bind_toCounter_of_lt h2 _
    · rw [if_neg (fun h : _ ∧ _ => h2 h.2)]
      cases s.scEn <;> exact bind_toCounter_of_le (Nat.le_of_not_lt h2) _
  · rw [if_neg h1, if_neg (fun h : _ ∧ _ => h1 h.1)]
    rfl

/-- The release at the end of the encrypt pipeline, in closed form. -/
theorem scFinalizeIfEnabled_eq (s : State) :
    scFinalizeIfEnabled s =
      if s.scEn = true → s.scNext.toNat < s.scEnd.toNat → s.scCount.toNat + 1 < 2 ^ 64 then .ok (released s)
      else .error (.refuse .counterOverflow) := by
  rw [scFinalizeIfEnabled, scFinalize_eq]
  by_cases h : s.scEn = true
  · rw [if_pos h]
    simp only [released, if_pos h]
    by_cases hc : s.scNext.toNat < s.scEnd.toNat → s.scCount.toNat + 1 < 2 ^ 64
    · rw [if_pos hc, if_pos (fun _ => hc)]; rfl
    · rw [if_neg hc, if_neg (fun h' => hc (h' h))]
  · rw [if_neg h]
    simp only [released, if_neg h]
    rw [if_pos (fun h' : s.scEn = true => absurd h' h)]

theorem scFinalizeIfEnabled_ok {s t : State} (h : scFinalizeIfEnabled s = .ok t) :
    (s.scEn = true → s.scNext.toNat < s.scEnd.toNat → s.scCount.toNat + 1 < 2 ^ 64) ∧ t = released s := by
  rw [scFinalizeIfEnabled_eq] at h
  by_cases hc : s.scEn = true → s.scNext.toNat < s.scEnd.toNat → s.scCount.toNat + 1 < 2 ^ 64
  · rw [if_pos hc] at h; cases h; exact ⟨hc, rfl⟩
  · rw [if_neg hc] at h; cases h

end Sys2Proof.Machine
end

