-- ==== Sys2Proof/Laws/Commands.lean ====
section
/-! SUPPORT. Every command but `ABORT` is its own pseudocode in the shared wrapper; what that leaves a command to do, said
once, and the pipelines' block encryption in closed form. -/

namespace Sys2Proof.Machine

open Sys2Proof

/-- The pseudocode of a command. -/
def bodyOf (i : Instr) (s : State) : Result State :=
  match i with
  | .kdf mt p => kdfBody mt p s
  | .keysLoad p => keysLoadBody p s
  | .cbcEnc f seed p => cbcEncBody f seed p s
  | .cbcDec f seed p => cbcDecBody f seed p s
  | .macNew => macNewBody s
  | .macUpdate p => macUpdateBody p s
  | .macFinal => macFinalBody s
  | .macVerify p => macVerifyBody p s
  | .scNew => scNewBody s
  | .scFeed p => scFeedBody p s
  | .scFinal => scFinalBody s
  | .encStart mt sc p => encStartBody mt sc p s
  | .encFeed p => encFeedBody p s
  | .encEnd => encEndBody s
  | .decStart mt p => decStartBody mt p s
  | .decFeed p => decFeedBody p s
  | .decEnd => decEndBody s
  | .abort => .ok (resetState s)

/-- A command other than `ABORT` runs its pseudocode in the wrapper. -/
theorem exec_eq_runCommand {i : Instr} (s : State) (h : i ≠ .abort) : exec i s = runCommand i.opcode s (bodyOf i) := by
  cases i <;> first | rfl | exact absurd rfl h

/-- In the error state only `ABORT` does anything (R242). -/
theorem exec_of_err {i : Instr} {s : State} (h : s.err ≠ none) (hne : i ≠ .abort) : exec i s = .next s := by
  rw [exec_eq_runCommand s hne, runCommand_of_err h]

/-- Where a command is accepted, its pseudocode decides. -/
theorem exec_of_accepts {i : Instr} {s : State} (h : Accepts i.opcode s) (hne : i ≠ .abort) :
    exec i s = finish i.opcode s (bodyOf i s) := by
  rw [exec_eq_runCommand s hne, runCommand_of_accepts h]

theorem exec_of_body_ok {i : Instr} {s t : State} (ha : Accepts i.opcode s) (hne : i ≠ .abort)
    (h : bodyOf i s = .ok t) : exec i s = .next t := by
  rw [exec_of_accepts ha hne, h]; rfl

theorem exec_of_body_raise {i : Instr} {s : State} {e : EngineError} (ha : Accepts i.opcode s) (hne : i ≠ .abort)
    (h : bodyOf i s = .error (.raise e)) : exec i s = .next (raiseError i.opcode.code e s) := by
  rw [exec_of_accepts ha hne, h]; rfl

theorem exec_of_body_refuse {i : Instr} {s : State} {r : Refusal} (ha : Accepts i.opcode s) (hne : i ≠ .abort)
    (h : bodyOf i s = .error (.refuse r)) : exec i s = .refused r := by
  rw [exec_of_accepts ha hne, h]; rfl

/-- Everything a command can do when it answers a next state. -/
theorem exec_cases {i : Instr} {s t : State} (h : exec i s = .next t) :
    (i = .abort ∧ t = resetState s) ∨
    (i ≠ .abort ∧ s.err ≠ none ∧ t = s) ∨
    (s.err = none ∧ i.opcode.isUnit = true ∧ s.params.unitAccess = false ∧ t = raiseError i.opcode.code .illegalCommand s) ∨
    (s.err = none ∧ modeLegal i.opcode s.mode = false ∧ t = raiseError i.opcode.code .sequenceError s) ∨
    (i ≠ .abort ∧ Accepts i.opcode s ∧
      (bodyOf i s = .ok t ∨ ∃ e, bodyOf i s = .error (.raise e) ∧ t = raiseError i.opcode.code e s)) := by
  by_cases hi : i = .abort
  · subst hi; cases h; exact .inl ⟨rfl, rfl⟩
  · rw [exec_eq_runCommand s hi] at h
    rcases runCommand_cases h with h | h | h | h
    · exact .inr (.inl ⟨hi, h⟩)
    · exact .inr (.inr (.inl h))
    · exact .inr (.inr (.inr (.inl h)))
    · exact .inr (.inr (.inr (.inr ⟨hi, h⟩)))

/-- A refused command was accepted, and its pseudocode refused (R9). -/
theorem exec_refused {i : Instr} {s : State} {r : Refusal} (h : exec i s = .refused r) :
    i ≠ .abort ∧ Accepts i.opcode s ∧ bodyOf i s = .error (.refuse r) := by
  have hi : i ≠ .abort := by rintro rfl; cases h
  rw [exec_eq_runCommand s hi] at h
  exact ⟨hi, runCommand_refused h⟩

/-! ### Runs of commands (R71) -/

@[simp] theorem execAll_nil (s : State) : execAll [] s = .next s := rfl

/-- A command that answers a next state hands it to the rest of the run. -/
theorem execAll_cons_of_next {i : Instr} {is : List Instr} {s t : State} (h : exec i s = .next t) :
    execAll (i :: is) s = execAll is t := by rw [execAll, h]

theorem execAll_cons_of_fault {i : Instr} {is : List Instr} {s : State} {r : Fault} (h : exec i s = .fault r) :
    execAll (i :: is) s = .fault r := by rw [execAll, h]

theorem execAll_cons_of_refused {i : Instr} {is : List Instr} {s : State} {r : Refusal} (h : exec i s = .refused r) :
    execAll (i :: is) s = .refused r := by rw [execAll, h]

/-- A run of one command is that command. -/
theorem execAll_singleton (i : Instr) (s : State) : execAll [i] s = exec i s := by
  rw [execAll]; cases exec i s <;> rfl

/-- In the error state a run without `ABORT` changes nothing (R242, R244). -/
theorem execAll_of_err {is : List Instr} {s : State} (h : s.err ≠ none) (ha : .abort ∉ is) : execAll is s = .next s := by
  induction is with
  | nil => rfl
  | cons i is ih =>
    have hi : i ≠ .abort := fun e => ha (e ▸ List.mem_cons_self)
    rw [execAll_cons_of_next (t := s), ih (fun hm => ha (List.mem_cons_of_mem _ hm))]
    exact exec_of_err h hi

/-! ### The pipelines' block encryption (R191 to R193) -/

/-- Everything the encryption of whole blocks in a pipeline can do. -/
theorem encBlocks_eq (x : Bytes) (s : State) :
    encBlocks x s =
      let r := cbcEncBlocks s.cipherKey s.chain x
      if (s.scEn = true → SidecarCountersFit r.1 s) ∧ s.emitted.toNat + r.1.length < 2 ^ 64 then
        .ok { delivered r.1 s with chain := r.2 }
      else .error (.refuse .counterOverflow) := by
  simp only [encBlocks]
  rw [encEmit_eq]
  rfl

theorem encBlocks_of_fits {x : Bytes} {s : State}
    (h1 : s.scEn = true → SidecarCountersFit (cbcEncBlocks s.cipherKey s.chain x).1 s)
    (h2 : s.emitted.toNat + (cbcEncBlocks s.cipherKey s.chain x).1.length < 2 ^ 64) :
    encBlocks x s = .ok { delivered (cbcEncBlocks s.cipherKey s.chain x).1 s with
      chain := (cbcEncBlocks s.cipherKey s.chain x).2 } := by
  rw [encBlocks_eq]; exact if_pos ⟨h1, h2⟩

theorem encBlocks_of_overflow {x : Bytes} {s : State}
    (h : ¬ ((s.scEn = true → SidecarCountersFit (cbcEncBlocks s.cipherKey s.chain x).1 s) ∧
      s.emitted.toNat + (cbcEncBlocks s.cipherKey s.chain x).1.length < 2 ^ 64)) :
    encBlocks x s = .error (.refuse .counterOverflow) := by
  rw [encBlocks_eq]; exact if_neg h

theorem encBlocks_ok {x : Bytes} {s t : State} (h : encBlocks x s = .ok t) :
    (s.scEn = true → SidecarCountersFit (cbcEncBlocks s.cipherKey s.chain x).1 s) ∧
    s.emitted.toNat + (cbcEncBlocks s.cipherKey s.chain x).1.length < 2 ^ 64 ∧
    t = { delivered (cbcEncBlocks s.cipherKey s.chain x).1 s with chain := (cbcEncBlocks s.cipherKey s.chain x).2 } := by
  rw [encBlocks_eq] at h
  simp only at h
  by_cases hc : (s.scEn = true → SidecarCountersFit (cbcEncBlocks s.cipherKey s.chain x).1 s) ∧
      s.emitted.toNat + (cbcEncBlocks s.cipherKey s.chain x).1.length < 2 ^ 64
  · rw [if_pos hc] at h; cases h; exact ⟨hc.1, hc.2, rfl⟩
  · rw [if_neg hc] at h; cases h

theorem fullLen_eq (buf : Bytes) : fullLen buf = 16 * (buf.length / 16) := rfl

theorem fullLen_le (buf : Bytes) : fullLen buf ≤ buf.length := by rw [fullLen_eq]; omega

theorem length_take_fullLen (buf : Bytes) : (buf.take (fullLen buf)).length = fullLen buf := by
  rw [List.length_take]; exact Nat.min_eq_left (fullLen_le buf)

/-- With no full block nothing happens. -/
theorem encFullBlocks_of_short {buf : Bytes} (s : State) (h : buf.length < 16) : encFullBlocks buf s = .ok s := by
  rw [encFullBlocks, if_neg (by rw [fullLen_eq]; omega)]

/-- With a full block the full blocks are encrypted. -/
theorem encFullBlocks_of_long {buf : Bytes} (s : State) (h : 16 ≤ buf.length) :
    encFullBlocks buf s = encBlocks (buf.take (fullLen buf)) s := by
  rw [encFullBlocks, if_pos (by rw [fullLen_eq]; omega), slice_zero]

/-- Everything `ENC_END` can do when nothing is refused. -/
theorem encEndBody_ok {s t : State} (h : encEndBody s = .ok t) :
    let y := (cbcEncBlocks s.cipherKey s.chain (pkcs7Pad s.pend)).1
    (s.scEn = true → SidecarCountersFit y s) ∧ s.emitted.toNat + y.length + 10 < 2 ^ 64 ∧
    t = pipelineClosed { released (delivered y s) with
      out := s.out ++ y ++ tag10 s.macKey (s.macMsg ++ y)
      emitted := BitVec.ofNat 64 (s.emitted.toNat + y.length + 10) } := by
  simp only [encEndBody, bind_eq_ok, pure_eq_ok, Except.ok.injEq] at h
  obtain ⟨u, hu, v, hv, c, hc, rfl⟩ := h
  obtain ⟨h1, h2, rfl⟩ := encBlocks_ok hu
  obtain ⟨-, rfl⟩ := scFinalizeIfEnabled_ok hv
  obtain ⟨h3, rfl⟩ := toCounter_eq_ok.1 hc
  simp only [emitOut_emitted, macClose_emitted, released_emitted, delivered_emitted, BitVec.toNat_ofNat, Nat.mod_eq_of_lt h2,
    Config.tagLen] at h3 ⊢
  exact ⟨h1, h3, rfl⟩

end Sys2Proof.Machine
end

