-- ==== Sys2Proof/Laws/Padding.lean ====
section
/-! SUPPORT. Padding and unpadding (R123, R124). -/

namespace Sys2Proof.Machine

open Sys2Proof

theorem padLen_pos (x : Bytes) : 1 ≤ padLen x ∧ padLen x ≤ 16 := by
  simp only [padLen, Config.blockLen]; omega

/-- `len(pkcs7_pad(X)) = 16 * ((len(X) div 16) + 1)` (R123). -/
theorem length_pkcs7Pad (x : Bytes) : (pkcs7Pad x).length = 16 * (x.length / 16 + 1) := by
  simp only [pkcs7Pad, List.length_append, List.length_replicate, padLen, Config.blockLen]; omega

theorem length_pkcs7Pad_mod (x : Bytes) : (pkcs7Pad x).length % 16 = 0 := by rw [length_pkcs7Pad]; omega

/-- Padding after whole blocks pads the rest. -/
theorem pkcs7Pad_append {a : Bytes} (b : Bytes) (h : a.length % 16 = 0) : pkcs7Pad (a ++ b) = a ++ pkcs7Pad b := by
  have : padLen (a ++ b) = padLen b := by simp only [padLen, Config.blockLen, List.length_append]; omega
  simp [pkcs7Pad, this]

/-- Unpadding gives back what was padded. -/
theorem pkcs7Unpad_pkcs7Pad (x : Bytes) : pkcs7Unpad (pkcs7Pad x) = some x := by
  obtain ⟨h1, h2⟩ := padLen_pos x
  have hn : (BitVec.ofNat 8 (padLen x)).toNat = padLen x := by simp; omega
  have hl : (pkcs7Pad x).getLast? = some (BitVec.ofNat 8 (padLen x)) := by
    rw [pkcs7Pad, List.getLast?_append, List.getLast?_replicate]
    simp [show padLen x ≠ 0 by omega]
  have hd : (pkcs7Pad x).length - padLen x = x.length := by simp [pkcs7Pad]
  simp only [pkcs7Unpad, hl, hn, hd]
  simp [pkcs7Pad, Config.padMax, h1, h2]

/-- What unpadding can do: it strips `p` bytes of value `p`, `1 ≤ p ≤ 16` (R124). -/
theorem pkcs7Unpad_eq_some {x y : Bytes} (h : pkcs7Unpad x = some y) :
    ∃ p : Nat, 1 ≤ p ∧ p ≤ 16 ∧ y = x.take (x.length - p) ∧
      x.drop (x.length - p) = List.replicate (x.length - (x.length - p)) (BitVec.ofNat 8 p) := by
  unfold pkcs7Unpad at h
  split at h
  · cases h
  · next b hb =>
    split at h
    · next hc =>
      obtain ⟨h1, h2, h3⟩ := hc
      refine ⟨b.toNat, h1, h2, by simpa using h.symm, ?_⟩
      rw [List.eq_replicate_iff]
      refine ⟨by simp, fun c hc => ?_⟩
      have := List.all_eq_true.1 h3 c hc
      simpa using this
    · cases h

theorem length_pkcs7Unpad_le {x y : Bytes} (h : pkcs7Unpad x = some y) : y.length ≤ x.length := by
  obtain ⟨p, -, -, rfl, -⟩ := pkcs7Unpad_eq_some h
  simp

/-- Unpadding looks at the last block only. -/
theorem pkcs7Unpad_append (a : Bytes) {b : Bytes} (hb : 16 ≤ b.length) :
    pkcs7Unpad (a ++ b) = (pkcs7Unpad b).map (a ++ ·) := by
  have hne : b ≠ [] := by intro h; simp [h] at hb
  have hl : (a ++ b).getLast? = b.getLast? := by
    rw [List.getLast?_append]
    cases h : b.getLast? with
    | none => exact absurd (List.getLast?_eq_none_iff.1 h) hne
    | some v => rfl
  simp only [pkcs7Unpad, hl]
  cases b.getLast? with
  | none => rfl
  | some v =>
    simp only
    by_cases hv : 1 ≤ v.toNat ∧ v.toNat ≤ Config.padMax
    · obtain ⟨h1, h2⟩ := hv
      simp only [Config.padMax] at h2
      have e1 : (a ++ b).length - v.toNat = a.length + (b.length - v.toNat) := by simp; omega
      have e2 : (a ++ b).drop ((a ++ b).length - v.toNat) = b.drop (b.length - v.toNat) := by
        rw [e1, List.drop_append, List.drop_eq_nil_of_le (by omega)]
        simp
      have e3 : (a ++ b).take ((a ++ b).length - v.toNat) = a ++ b.take (b.length - v.toNat) := by
        rw [e1, List.take_append]
        simp
      rw [e2, e3]
      split <;> simp
    · rw [if_neg (fun h => hv ⟨h.1, h.2.1⟩), if_neg (fun h => hv ⟨h.1, h.2.1⟩)]
      rfl

end Sys2Proof.Machine
end

