-- ==== Sys2Proof/Laws/PerInstr.lean ====
section
/-! SUPPORT. Per-instruction families: one lemma for each constructor of `Instr`. -/

namespace Sys2Proof.Laws.WordMatches

open Sys2Proof

/-- A word spells an opcode: `(w & mask) = match`, and its low byte is the opcode's (R81, R83). -/
abbrev Spells (w : Word) (op : Opcode) : Prop := w &&& op.mask = op.matchBits ∧ opcField w = op.code

/-- R83: the word of a command spells its opcode. -/
def Statement (i : Instr) : Prop := Spells i.word i.opcode

/-- The word of an opcode with every field 0. -/
theorem spells_plain (op : Opcode) : Spells (commandWord false false false 0 op) op := by
  have h : ∀ op ∈ Opcode.all, Spells (commandWord false false false 0 op) op := by decide
  exact h op (by cases op <;> simp [Opcode.all])

/-- The words of the commands with a media type. -/
theorem spells_media (mt : MediaType) (sc : Bool) :
    Spells (commandWord false false false mt.code .kdf) .kdf ∧
    Spells (commandWord sc false false mt.code .encStart) .encStart ∧
    Spells (commandWord false false false mt.code .decStart) .decStart := by
  have h : ∀ b : BitVec 2, ∀ sc : Bool, Spells (commandWord false false false b .kdf) .kdf ∧
    Spells (commandWord sc false false b .encStart) .encStart ∧
    Spells (commandWord false false false b .decStart) .decStart := by decide
  exact h mt.code sc

/-- The words of `CBC_ENC` and `CBC_DEC`. -/
theorem spells_cbc (f seed : Bool) :
    Spells (commandWord false seed f 0 .cbcEnc) .cbcEnc ∧ Spells (commandWord false seed f 0 .cbcDec) .cbcDec := by
  have h : ∀ f seed : Bool, Spells (commandWord false seed f 0 .cbcEnc) .cbcEnc ∧
    Spells (commandWord false seed f 0 .cbcDec) .cbcDec := by decide
  exact h f seed

theorem kdf (mt : MediaType) (p : Bytes) : Statement (.kdf mt p) := (spells_media mt false).1
theorem keysLoad (p : Bytes) : Statement (.keysLoad p) := spells_plain .keysLoad
theorem cbcEnc (f seed : Bool) (p : Bytes) : Statement (.cbcEnc f seed p) := (spells_cbc f seed).1
theorem cbcDec (f seed : Bool) (p : Bytes) : Statement (.cbcDec f seed p) := (spells_cbc f seed).2
theorem macNew : Statement .macNew := spells_plain .macNew
theorem macUpdate (p : Bytes) : Statement (.macUpdate p) := spells_plain .macUpdate
theorem macFinal : Statement .macFinal := spells_plain .macFinal
theorem macVerify (p : Bytes) : Statement (.macVerify p) := spells_plain .macVerify
theorem scNew : Statement .scNew := spells_plain .scNew
theorem scFeed (p : Bytes) : Statement (.scFeed p) := spells_plain .scFeed
theorem scFinal : Statement .scFinal := spells_plain .scFinal
theorem encStart (mt : MediaType) (sc : Bool) (p : Bytes) : Statement (.encStart mt sc p) := (spells_media mt sc).2.1
theorem encFeed (p : Bytes) : Statement (.encFeed p) := spells_plain .encFeed
theorem encEnd : Statement .encEnd := spells_plain .encEnd
theorem decStart (mt : MediaType) (p : Bytes) : Statement (.decStart mt p) := (spells_media mt false).2.2
theorem decFeed (p : Bytes) : Statement (.decFeed p) := spells_plain .decFeed
theorem decEnd : Statement .decEnd := spells_plain .decEnd
theorem abort : Statement .abort := spells_plain .abort

end Sys2Proof.Laws.WordMatches
end

