-- ==== Sys2Proof/Laws/Sidecar.lean ====
section
/-! SUPPORT. The sidecar (R171, R177) under concatenation, and what a command does that is not accepted. -/

namespace Sys2Proof.Machine

open Sys2Proof

/-- The full windows of a buffer that grows: how many. -/
theorem fullWindows_append (a b : Bytes) :
    fullWindows (a ++ b).length =
      fullWindows a.length + fullWindows (a.drop (65536 * fullWindows a.length) ++ b).length := by
  simp only [List.length_append, List.length_drop]
  exact fullWindows_grow _ _

/-- The full windows of a buffer that grows: what is left. -/
theorem drop_fullWindows_append (a b : Bytes) :
    (a ++ b).drop (65536 * fullWindows (a ++ b).length) =
      (a.drop (65536 * fullWindows a.length) ++ b).drop
        (65536 * fullWindows (a.drop (65536 * fullWindows a.length) ++ b).length) := by
  rw [fullWindows_append, Nat.mul_add, ← List.drop_drop, List.drop_append_of_le_length (fullWindows_fit _)]

theorem sidecarCountersFit_iff (c : Bytes) (s : State) :
    SidecarCountersFit c s ↔
    s.scEnd.toNat + c.length < 2 ^ 64 ∧ s.scCount.toNat + fullWindows (s.scBuf ++ c).length < 2 ^ 64 ∧
    s.scNext.toNat + 65536 * fullWindows (s.scBuf ++ c).length < 2 ^ 64 := by
  simp only [SidecarCountersFit, List.length_append]

/-- Feeding a joined byte string is feeding its parts in turn (R178). -/
theorem sidecarFed_append {a : Bytes} (b : Bytes) {s : State} (h : SidecarCountersFit a s) :
    sidecarFed (a ++ b) s = sidecarFed b (sidecarFed a s) := by
  obtain ⟨x, y, z⟩ := (sidecarCountersFit_iff a s).1 h
  have hb := drop_fullWindows_append (s.scBuf ++ a) b
  have ht := windowTags_grow s.macKey (s.scBuf ++ a) b
  have hn := fullWindows_append (s.scBuf ++ a) b
  simp only [sidecarFed, ← List.append_assoc, BitVec.toNat_ofNat, Nat.mod_eq_of_lt x, Nat.mod_eq_of_lt y, Nat.mod_eq_of_lt z]
  rw [hb, ht, hn]
  simp only [List.append_assoc, List.length_append (as := a), Nat.mul_add, Nat.add_assoc]

/-- A joined byte string fits the counters exactly when its parts do in turn. -/
theorem sidecarCountersFit_append (a b : Bytes) (s : State) :
    SidecarCountersFit (a ++ b) s ↔ SidecarCountersFit a s ∧ SidecarCountersFit b (sidecarFed a s) := by
  have hn := fullWindows_append (s.scBuf ++ a) b
  rw [sidecarCountersFit_iff, sidecarCountersFit_iff, sidecarCountersFit_iff, ← List.append_assoc, hn, List.length_append (as := a)]
  simp only [sidecarFed_scEnd, sidecarFed_scCount, sidecarFed_scNext, sidecarFed_scBuf, BitVec.toNat_ofNat]
  generalize fullWindows (s.scBuf ++ a).length = m
  generalize fullWindows (List.drop (65536 * m) (s.scBuf ++ a) ++ b).length = n
  constructor
  · rintro ⟨x, y, z⟩
    refine ⟨⟨by omega, by omega, by omega⟩, by omega, by omega, by omega⟩
  · rintro ⟨⟨x, y, z⟩, u, v, w⟩
    rw [Nat.mod_eq_of_lt x] at u
    rw [Nat.mod_eq_of_lt y] at v
    rw [Nat.mod_eq_of_lt z] at w
    exact ⟨by omega, by omega, by omega⟩

/-- `sc_feed` of a joined byte string, refusals included. -/
theorem scFeed_append (a b : Bytes) (s : State) : (scFeed a s >>= scFeed b) = scFeed (a ++ b) s := by
  rw [scFeed_eq, scFeed_eq]
  by_cases h : SidecarCountersFit a s
  · rw [if_pos h, bind_ok, scFeed_eq]
    by_cases h' : SidecarCountersFit b (sidecarFed a s)
    · rw [if_pos h', if_pos ((sidecarCountersFit_append a b s).2 ⟨h, h'⟩), sidecarFed_append b h]
    · rw [if_neg h', if_neg (fun hh => h' ((sidecarCountersFit_append a b s).1 hh).2)]
  · rw [if_neg h, bind_error, if_neg (fun hh => h ((sidecarCountersFit_append a b s).1 hh).1)]

/-- A command that is not accepted does the same whatever its pseudocode: its error, or nothing. -/
theorem accepts_or_rejects (op : Opcode) (s : State) :
    Accepts op s ∨ (∃ t : State, t.err ≠ none ∧ ∀ body, runCommand op s body = .next t) := by
  by_cases he : s.err = none
  · by_cases hu : op.isUnit = true → s.params.unitAccess = true
    · by_cases hm : modeLegal op s.mode = true
      · exact .inl ⟨he, hu, hm⟩
      · exact .inr ⟨raiseError op.code .sequenceError s, by simp, fun b => runCommand_of_mode he hu (by simpa using hm)⟩
    · obtain ⟨h1, h2⟩ := Classical.not_imp.1 hu
      exact .inr ⟨raiseError op.code .illegalCommand s, by simp, fun b => runCommand_of_no_access he h1 (by simpa using h2)⟩
  · exact .inr ⟨s, he, fun b => runCommand_of_err he⟩

/-- `N(L)` counts the full windows and the trailing one (R177). -/
theorem windowCount_eq (n : Nat) (h : n ≠ 0) : windowCount n = fullWindows n + 1 := by
  simp only [windowCount, fullWindows, if_neg h]; omega

end Sys2Proof.Machine
end

