-- ==== Sys2Proof/Machine/AsmText.lean ====
section
/-! DEFINITION. The text of a line of a command program (30_encoding.md R91, R92): its tokens, and the tree they spell. -/

namespace Sys2Proof.Machine

open Sys2Proof

/-! ### Names -/

/-- Column mnemonic of the opcode map (R83). -/
def Opcode.mnemonic : Opcode → String
  | .kdf => "KDF"
  | .keysLoad => "KEYS_LOAD"
  | .cbcEnc => "CBC_ENC"
  | .cbcDec => "CBC_DEC"
  | .macNew => "MAC_NEW"
  | .macUpdate => "MAC_UPDATE"
  | .macFinal => "MAC_FINAL"
  | .macVerify => "MAC_VERIFY"
  | .scNew => "SC_NEW"
  | .scFeed => "SC_FEED"
  | .scFinal => "SC_FINAL"
  | .encStart => "ENC_START"
  | .encFeed => "ENC_FEED"
  | .encEnd => "ENC_END"
  | .decStart => "DEC_START"
  | .decFeed => "DEC_FEED"
  | .decEnd => "DEC_END"
  | .abort => "ABORT"

/-- The command of a mnemonic. -/
def opcodeNamed (n : String) : Option Opcode := Opcode.all.find? (fun op => Opcode.mnemonic op == n)

/-- The pseudo-instruction of a name (R92). -/
def pseudoNamed (n : String) : Option PseudoName :=
  if n == "ENCRYPT" then some .encrypt
  else if n == "DECRYPT" then some .decrypt
  else if n == "MAC_TAG" then some .macTag
  else if n == "SIDECAR" then some .sidecar
  else if n == "CBC_SEAL" then some .cbcSeal
  else if n == "CBC_OPEN" then some .cbcOpen
  else none

/-- `MEDIA` (R91). -/
def mediaNamed (n : String) : Option MediaType :=
  if n == "IMAGE" then some .image
  else if n == "VIDEO" then some .video
  else if n == "AUDIO" then some .audio
  else if n == "DOCUMENT" then some .document
  else none

/-! ### Tokens -/

/-- A token of a line: a word (mnemonic, name or number), a quoted text, a hex string, `++`, or a mark. -/
inductive Token where
  | word (w : String)
  | text (chars : List Char)
  | hex (chars : List Char)
  | concat
  | mark (c : Char)
  deriving DecidableEq, Repr

/-- The double quote. -/
def quoteMark : Char := Char.ofNat 34

/-- The characters of mnemonics, names and numbers. -/
def isWordChar (c : Char) : Bool := c.isAlphanum || c == '_' || c == Char.ofNat 39

/-- The tokens of a line; `fuel` is more than its length. A `;` outside a quoted text starts a comment (R91). -/
def tokens : Nat → List Char → Option (List Token)
  | 0, _ => none
  | _ + 1, [] => some []
  | fuel + 1, c :: cs =>
    if c == ' ' || c == Char.ofNat 9 then tokens fuel cs
    else if c == ';' then some []
    else if c == quoteMark then
      match cs.dropWhile (· != quoteMark) with
      | [] => none
      | _ :: rest => (tokens fuel rest).map (Token.text (cs.takeWhile (· != quoteMark)) :: ·)
    else if c == 'x' && cs.head? == some quoteMark then
      match cs.tail.dropWhile (· != quoteMark) with
      | [] => none
      | _ :: rest => (tokens fuel rest).map (Token.hex (cs.tail.takeWhile (· != quoteMark)) :: ·)
    else if isWordChar c then
      (tokens fuel (cs.dropWhile isWordChar)).map (Token.word (String.ofList (c :: cs.takeWhile isWordChar)) :: ·)
    else if c == '+' && cs.head? == some '+' then (tokens fuel cs.tail).map (Token.concat :: ·)
    else if ['.', ',', ':', '=', '(', ')'].contains c then (tokens fuel cs).map (Token.mark c :: ·)
    else none

/-! ### Numbers -/

/-- The value of a hex digit. -/
def hexDigit (c : Char) : Option (BitVec 4) :=
  if '0' ≤ c ∧ c ≤ '9' then some (BitVec.ofNat 4 (c.toNat - 48))
  else if 'a' ≤ c ∧ c ≤ 'f' then some (BitVec.ofNat 4 (c.toNat - 87))
  else if 'A' ≤ c ∧ c ≤ 'F' then some (BitVec.ofNat 4 (c.toNat - 55))
  else none

/-- The value of a decimal number. -/
def decimal (w : String) : Option Nat :=
  let ds := w.toList
  if ds.isEmpty || !ds.all (fun c => '0' ≤ c ∧ c ≤ '9') then none
  else some (ds.foldl (fun n c => 10 * n + (c.toNat - 48)) 0)

/-- A name a payload can be bound to: it starts with no digit. -/
def isName (w : String) : Bool :=
  match w.toList with
  | [] => false
  | c :: _ => !('0' ≤ c ∧ c ≤ '9')

/-! ### Operands -/

/-- An atom, and the tokens after it (R91). -/
def parseAtom : List Token → Option (Atom × List Token)
  | .text cs :: rest => some (.text cs, rest)
  | .hex cs :: rest => (cs.mapM hexDigit).map fun ds => (.hex ds, rest)
  | .word w :: .mark '(' :: .word n :: .mark ')' :: rest =>
    if w == "zeros" then (decimal n).map fun n => (.zeros n, rest)
    else if w == "seq" then (decimal n).map fun n => (.seq n, rest)
    else none
  | .word w :: .mark '(' :: .word v :: .mark ',' :: .word n :: .mark ')' :: rest =>
    match decimal v, decimal n with
    | some v, some n => if w == "fill" ∧ v < 256 then some (.fill (BitVec.ofNat 8 v) n, rest) else none
    | _, _ => none
  | .word w :: rest => if isName w then some (.name w, rest) else none
  | _ => none

/-- A payload, and the tokens after it (R91). -/
def parsePayload : Nat → List Token → Option (List Atom × List Token)
  | 0, _ => none
  | fuel + 1, ts =>
    match parseAtom ts with
    | none => none
    | some (a, .concat :: rest) => (parsePayload fuel rest).map fun r => (a :: r.1, r.2)
    | some (a, rest) => some ([a], rest)

/-- An operand, and the tokens after it (R91). -/
def parseOperand (ts : List Token) : Option (AsmOperand × List Token) :=
  match ts with
  | .word w :: rest =>
    match mediaNamed w with
    | some mt => some (.media mt, rest)
    | none =>
      if w == "SC" then some (.sidecar, rest)
      else (parsePayload (ts.length + 1) ts).map fun r => (.payload r.1, r.2)
  | _ => (parsePayload (ts.length + 1) ts).map fun r => (.payload r.1, r.2)

/-- `operand ("," operand)*`, to the end of the line (R91). -/
def parseOperands : Nat → List Token → Option (List AsmOperand)
  | 0, _ => none
  | fuel + 1, ts =>
    match parseOperand ts with
    | some (o, []) => some [o]
    | some (o, .mark ',' :: rest) => (parseOperands fuel rest).map (o :: ·)
    | _ => none

/-- `[operand ("," operand)*]` (R91). -/
def parseOperandList (ts : List Token) : Option (List AsmOperand) :=
  match ts with
  | [] => some []
  | t :: rest => parseOperands (rest.length + 1) (t :: rest)

/-- `suffix*`, and the tokens after it (R91). -/
def parseSuffixes : List Token → List Suffix × List Token
  | .mark '.' :: .word w :: rest =>
    let r := parseSuffixes rest
    if w == "F" then (.f :: r.1, r.2)
    else if w == "S" then (.s :: r.1, r.2)
    else ([], .mark '.' :: .word w :: rest)
  | ts => ([], ts)

/-! ### Lines -/

/-- A line without its label (R91, R92). -/
def parseStatement (ts : List Token) : Option AsmLine :=
  match ts with
  | .word w :: rest =>
    match opcodeNamed w, pseudoNamed w with
    | some op, _ =>
      let r := parseSuffixes rest
      (parseOperandList r.2).map fun os => .command op r.1 os
    | none, some p => (parseOperandList rest).map fun os => .pseudo p os
    | none, none =>
      match w == "let", rest with
      | true, .word n :: .mark '=' :: body =>
        match isName n, parsePayload (body.length + 1) body with
        | true, some (as, []) => some (.bindName n as)
        | _, _ => none
      | _, _ => none
  | _ => none

/-- A line of text as the tree it spells, or `none` where it is no line of R91 or R92. A label is a comment only (R91).
DESIGN CHOICE (log 15): R91 does not say what spells a label; here it is any one word, one that starts with a digit
included. A label is also taken before a `let` line, for which the grammar of R91 has none, and before a
pseudo-instruction. -/
def parseLine (line : String) : Option AsmLine :=
  match tokens (line.length + 1) line.toList with
  | none => none
  | some (.word _ :: .mark ':' :: ts) => parseStatement ts
  | some ts => parseStatement ts

/-- The transactions of a program given as its lines of text: `none` where a line is not in the syntax or does not
assemble (R91, R92). -/
def assembleText (lines : List String) : Option (List (Word × Bytes)) :=
  match lines.mapM parseLine with
  | none => none
  | some ls =>
    match assembleAll [] ls with
    | .ok ts => some ts
    | .error _ => none

end Sys2Proof.Machine
end

