-- ==== Sys2Proof/Tests/Slice0.lean ====
section
/-! SUPPORT. Tests of the model. Expected values come from the spec: the encodings of 30_encoding.md, and the vectors of
95_test_vectors.md (V-…, W…, P…) that do not depend on the primitives. The `witness_…` theorems show, for each statement
of Certificates/Slice0/Obligations.lean that has hypotheses, a state and operands that meet them. -/

namespace Sys2Proof.Tests

open Sys2Proof Sys2Proof.Machine

/-! ### Small states -/

/-- An engine right after reset. -/
def engine (unit : Bool) (cap : Option Nat) : State := State.resetWith { unitAccess := unit, spoolCap := cap } [] []

/-- Right after reset, with unit access and an unbounded spool. -/
def fresh : State := engine true none

/-- With keys, as after `KEYS_LOAD` of 80 zero bytes. -/
def keyed : State := { fresh with keysValid := true }

/-- A live MAC context, as after `MAC_NEW`. -/
def macLive : State := { keyed with macSt := .active, macMsg := List.replicate 16 0 }

/-- A live sidecar context, as after `SC_NEW`. -/
def scLive : State := { keyed with scSt := .active }

/-- A running encrypt pipeline, as after `ENC_START`. -/
def encLive (sc : Bool) : State :=
  { macLive with mode := .enc, scEn := sc, scSt := if sc then .active else .none }

/-- A running decrypt pipeline, as after `DEC_START`. -/
def decLive : State := { macLive with mode := .dec }

/-- A decrypt pipeline that was fed `c` and the tag `t`. -/
def decFed (c t : Bytes) : State :=
  { decLive with
    macMsg := List.replicate 16 0 ++ c, spool := c, tail := t, consumed := BitVec.ofNat 64 (c.length + t.length) }

/-- The tag that belongs to `c` in `decFed`. -/
def tagOf (c : Bytes) : Bytes := tag10 decLive.macKey (List.replicate 16 0 ++ c)

/-- Ten bytes other than `t`. -/
def otherTag (t : Bytes) : Bytes := if t = List.replicate 10 0 then List.replicate 10 1 else List.replicate 10 0

theorem otherTag_ne (t : Bytes) : otherTag t ≠ t ∧ (otherTag t).length = 10 := by
  unfold otherTag
  split
  · next h => subst h; decide
  · next h => exact ⟨fun e => h e.symm, rfl⟩

/-- The ciphertext of `p` under the zero key and IV. -/
def sealed (p : Bytes) : Bytes := (cbcEncBlocks keyed.cipherKey keyed.iv (pkcs7Pad p)).1

/-- One block that decrypts to zeros, which is no padding. -/
def unpadded : Bytes := (cbcEncBlocks keyed.cipherKey keyed.iv (List.replicate 16 0)).1

theorem length_sealed (p : Bytes) : (sealed p).length = 16 * (p.length / 16 + 1) := by
  rw [sealed, length_cbcEncBlocks, length_pkcs7Pad]; omega

theorem unpad_sealed (p : Bytes) : pkcs7Unpad (cbcDecBlocks keyed.cipherKey keyed.iv (sealed p)).1 = some p := by
  rw [sealed, cbcDecBlocks_cbcEncBlocks _ _ (length_pkcs7Pad_mod p), pkcs7Unpad_pkcs7Pad]

theorem length_unpadded : unpadded.length = 16 := by
  rw [unpadded, length_cbcEncBlocks]; rfl

theorem unpad_unpadded : pkcs7Unpad (cbcDecBlocks keyed.cipherKey keyed.iv unpadded).1 = none := by
  rw [unpadded, cbcDecBlocks_cbcEncBlocks _ _ rfl]; decide

/-- `STATUS` after a step. -/
def statusAfter (o : Host.Outcome State Fault Refusal) : Option Word :=
  match o with
  | .next t => some (status t)
  | .fault _ => none
  | .refused _ => none

/-- A field after a step. -/
def fieldAfter {α : Type} (f : State → α) (o : Host.Outcome State Fault Refusal) : Option α :=
  match o with
  | .next t => some (f t)
  | .fault _ => none
  | .refused _ => none

/-! ### Well-formed commands (R80) -/

theorem length_limit : (List.replicate Config.payloadLimit (0 : Byte)).length = 4294967296 := List.length_replicate ..

theorem test_wf_refuses_oversized_payload : payloadWf (List.replicate Config.payloadLimit 0) = false := by
  rw [payloadWf, length_limit]; decide

theorem test_wf_refuses_each_oversized_command :
    let p : Bytes := List.replicate Config.payloadLimit 0
    [Instr.kdf .image p, .keysLoad p, .cbcEnc true true p, .cbcDec true true p, .macUpdate p, .macVerify p, .scFeed p,
      .encStart .image true p, .encFeed p, .decStart .image p, .decFeed p].map Instr.wf = List.replicate 11 false := by
  simp only [List.map_cons, List.map_nil, Instr.wf, test_wf_refuses_oversized_payload]; rfl

theorem test_submit_faults_on_oversized_payload (w : Word) :
    submit w (List.replicate Config.payloadLimit 0) fresh = .fault .oversizedPayload := by
  rw [submit, test_wf_refuses_oversized_payload]; rfl

/-! ### Decoding: words written out from R81 to R83 (R93, V-ENC-1, V-ENC-2) -/

theorem test_decode_kdf : decode 0x00000301 [7] = .ok (.kdf .document [7]) := rfl
theorem test_decode_keysLoad : decode 0x00000002 [7] = .ok (.keysLoad [7]) := rfl
theorem test_decode_cbcEnc : decode 0x00000010 [7] = .ok (.cbcEnc false false [7]) := rfl
theorem test_decode_cbcEnc_f : decode 0x00000410 [] = .ok (.cbcEnc true false []) := rfl
theorem test_decode_cbcEnc_s : decode 0x00000810 [7] = .ok (.cbcEnc false true [7]) := rfl
theorem test_decode_cbcDec_fs : decode 0x00000C11 [7] = .ok (.cbcDec true true [7]) := rfl
theorem test_decode_macNew : decode 0x00000020 [] = .ok .macNew := rfl
theorem test_decode_macUpdate : decode 0x00000021 [7] = .ok (.macUpdate [7]) := rfl
theorem test_decode_macFinal : decode 0x00000022 [] = .ok .macFinal := rfl
theorem test_decode_macVerify : decode 0x00000023 [7] = .ok (.macVerify [7]) := rfl
theorem test_decode_scNew : decode 0x00000030 [] = .ok .scNew := rfl
theorem test_decode_scFeed : decode 0x00000031 [7] = .ok (.scFeed [7]) := rfl
theorem test_decode_scFinal : decode 0x00000032 [] = .ok .scFinal := rfl
theorem test_decode_encStart : decode 0x00001240 [7] = .ok (.encStart .audio true [7]) := rfl
theorem test_decode_encFeed : decode 0x00000041 [7] = .ok (.encFeed [7]) := rfl
theorem test_decode_encEnd : decode 0x00000042 [] = .ok .encEnd := rfl
theorem test_decode_decStart : decode 0x00000150 [7] = .ok (.decStart .video [7]) := rfl
theorem test_decode_decFeed : decode 0x00000051 [7] = .ok (.decFeed [7]) := rfl
theorem test_decode_decEnd : decode 0x00000052 [] = .ok .decEnd := rfl
theorem test_decode_abort : decode 0x000000FF [7] = .ok .abort := rfl

/-- Undefined opcode, MT on `CBC_ENC`, F on `KDF`, reserved bit 13, reserved bit 31, `0x1FF`, class-none payload. -/
theorem test_decode_rejects :
    [decode 0x00000003 [], decode 0x00000510 [], decode 0x00000401 [], decode 0x00002040 [], decode 0x80000020 [],
      decode 0x000001FF [], decode 0x00000020 [0]] =
    [.error .undefinedOpcode, .error .disallowedBits, .error .disallowedBits, .error .disallowedBits,
      .error .disallowedBits, .error .disallowedBits, .error .payloadNotAllowed] := rfl

/-- The words of the commands, by the table of R83. -/
theorem test_encode_words :
    [Instr.kdf .video [], .keysLoad [], .cbcEnc true true [], .cbcDec false true [], .macNew, .macUpdate [], .macFinal,
      .macVerify [], .scNew, .scFeed [], .scFinal, .encStart .audio true [], .encFeed [], .encEnd, .decStart .document [],
      .decFeed [], .decEnd, .abort].map (fun i => (encode i).1) =
    [0x101, 0x2, 0xC10, 0x811, 0x20, 0x21, 0x22, 0x23, 0x30, 0x31, 0x32, 0x1240, 0x41, 0x42, 0x350, 0x51, 0x52, 0xFF] := by
  decide

/-- No two rows of the opcode map overlap: they differ in a bit that both masks cover (R83). -/
theorem test_rows_are_disjoint :
    Opcode.all.Pairwise (fun a b => a.matchBits &&& a.mask &&& b.mask ≠ b.matchBits &&& a.mask &&& b.mask) := by decide

theorem test_decodeTableWord : decodeTableWord 32 0x00000023 = some (.macVerify (List.replicate 10 0)) := rfl

theorem test_withFetchWord_runs : statusAfter (step (fresh.withFetchWord 32 0x00000040)) = some 0x00000415 := by decide

/-! ### Assembler (R91, R93) -/

theorem test_assemble_encStart :
    assemble [] .encStart [] [.media .audio, .sidecar, .payload [.zeros 32]] = .ok (0x00001240, List.replicate 32 0) := rfl

theorem test_assemble_cbcEnc :
    assemble [("d", [1, 2])] .cbcEnc [.f, .s] [.payload [.name "d", .hex [0xA, 0xB], .fill 0x10 2, .seq 3, .text ['a']]] =
      .ok (0x00000C10, [1, 2, 0xAB, 0x10, 0x10, 0, 1, 2, 0x61]) := rfl

theorem test_assemble_rejects :
    [assemble [] .kdf [] [.payload []], assemble [] .macNew [] [.media .image], assemble [] .decStart [] [.media .image, .sidecar],
      assemble [] .kdf [] [.media .image], assemble [] .macNew [.f] [], assemble [] .macUpdate [] [.payload [.hex [1]]]] =
    [.error .mediaRequired, .error .mediaForbidden, .error .sidecarForbidden, .error .payloadRequired,
      .error .suffixForbidden, .error .oddHexDigits] := rfl

theorem test_assembleText_program :
    assembleText ["let KL = x\"0a0B\" ++ fill(16,2)", "start: ENC_START AUDIO, SC, zeros(32) ; a comment",
      "CBC_ENC.F.S KL ++ \"hi;\"", "CBC_SEAL seq(3)", "ABORT"] =
    some [(0x00001240, List.replicate 32 0), (0x00000C10, [0x0A, 0x0B, 16, 16, 0x68, 0x69, 0x3B]),
      (0x00000C10, [0, 1, 2]), (0x000000FF, [])] := by decide

/-- Labels where the model takes them (log 15). -/
theorem test_parseLine_labels :
    ["1: ABORT", "a: let d = seq(1)", "a: CBC_OPEN d"].map parseLine =
      [some (.command .abort [] []), some (.bindName "d" [.seq 1]),
        some (.pseudo .cbcOpen [.payload [.name "d"]])] := by decide

theorem test_parseLine_rejects :
    ["CBC_ENC.X", "zeros(3)", "KDF IMAGE,", "let 3 = seq(2)", "MAC_UPDATE x\"0g\"", "MAC_UPDATE \"open", ".word 0x1"].map
      parseLine = List.replicate 7 none := by decide

/-! ### Registers and reset (V-HE-4, V-ENC-2) -/

theorem test_reset_status : status fresh = 0x00000400 := by decide
theorem test_reset_status_without_units : status (engine false none) = 0x00000000 := by decide
theorem test_read_of_unaligned_offset : readReg 0x02 { fresh with consumed := -1 } = 0 := rfl
theorem test_read_of_counter_halves :
    (readReg 0x08 { fresh with consumed := 0x1122334455667788 }, readReg 0x0C { fresh with consumed := 0x1122334455667788 }) =
      (0x55667788, 0x11223344) := by decide

/-- `Submit` of a raw word and payload to the engine `s`. -/
def submitted (s : State) (w : Word) (p : Bytes) : Option Word := statusAfter (step { s with pending := [.submit w p] })

theorem test_undefined_opcode : submitted fresh 0x00000003 [] = some 0x00038400 := by decide
theorem test_mt_on_cbcEnc : submitted fresh 0x00000510 [] = some 0x00108400 := by decide
theorem test_payload_on_macNew : submitted fresh 0x00000020 [0] = some 0x00208400 := by decide
theorem test_unit_command_without_units : submitted (engine false none) 0x00000020 [] = some 0x00208000 := by decide
theorem test_abort_with_payload : submitted (encLive false) 0x000000FF [1, 2, 3] = some 0x00000400 := by decide
/-- V-HE-1: the error state ignores a word that is not exactly `ABORT`. -/
theorem test_error_state_ignores :
    submitted { fresh with err := some .sequenceError, errOpc := 0x41 } 0x000001FF [] = some 0x00419400 := by decide

/-! ### Commands, one step each -/

theorem test_kdf : statusAfter (exec (.kdf .image (List.replicate 32 0)) fresh) = some 0x00000404 := by decide
theorem test_kdf_length : statusAfter (exec (.kdf .image (List.replicate 33 0)) fresh) = some 0x00011400 := by decide
theorem test_keysLoad_length : statusAfter (exec (.keysLoad (List.replicate 79 0)) fresh) = some 0x00021400 := by decide
theorem test_keysLoad_order :
    fieldAfter (fun t => (t.iv[15], t.cipherKey[0], t.cipherKey[31], t.macKey[0], t.macKey[31], t.chain[1]))
      (exec (.keysLoad ((List.range 80).map (BitVec.ofNat 8))) macLive) = some (15, 16, 47, 48, 79, 1) := by decide
theorem test_cbcEnc_unaligned : statusAfter (exec (.cbcEnc false true (List.replicate 17 0)) keyed) = some 0x00102404 := by
  decide
theorem test_cbcEnc_without_keys : statusAfter (exec (.cbcEnc false false (List.replicate 16 0)) fresh) = some 0x00109400 := by
  decide
theorem test_cbcDec_empty_final : statusAfter (exec (.cbcDec true false []) keyed) = some 0x00112404 := by decide
/-- V-CBC-6: `CHAIN` after a decryption is the last ciphertext block. -/
theorem test_cbcDec_chain :
    fieldAfter (fun t => t.chain) (exec (.cbcDec false false (List.replicate 16 5)) keyed) = some (Vector.replicate 16 5) := rfl
theorem test_macNew : statusAfter (exec .macNew keyed) = some 0x00000414 := by decide
theorem test_macNew_without_keys : statusAfter (exec .macNew fresh) = some 0x00209400 := by decide
theorem test_macUpdate_without_context : statusAfter (exec (.macUpdate [0x78]) keyed) = some 0x00219404 := by decide
theorem test_macUpdate_after_final :
    statusAfter (exec (.macUpdate [0x78]) { macLive with macSt := .final }) = some 0x00217424 := by decide
theorem test_macFinal : statusAfter (exec .macFinal macLive) = some 0x00000424 := by decide
theorem test_macFinal_length : fieldAfter (fun t => t.out.length) (exec .macFinal macLive) = some 10 := by decide
theorem test_macVerify_short : statusAfter (exec (.macVerify (List.replicate 9 0)) macLive) = some 0x00236414 := by decide
theorem test_macVerify_without_context : statusAfter (exec (.macVerify []) keyed) = some 0x00239404 := by decide
theorem test_scNew : statusAfter (exec .scNew keyed) = some 0x00000444 := by decide
theorem test_scFeed_without_context : statusAfter (exec (.scFeed [0]) keyed) = some 0x00319404 := by decide
theorem test_scFeed_short :
    fieldAfter (fun t => (t.scEnd, t.scCount, t.scNext, t.sco)) (exec (.scFeed (List.replicate 100 0)) scLive) =
      some (100, 0, 0, []) := by decide
theorem test_scFinal_empty : statusAfter (exec .scFinal scLive) = some 0x00000484 := by decide
theorem test_scFinal_twice : statusAfter (exec .scFinal { scLive with scSt := .final }) = some 0x00327484 := by decide
theorem test_encStart : statusAfter (exec (.encStart .image false (List.replicate 32 0)) keyed) = some 0x00000415 := by decide
theorem test_encStart_sidecar : statusAfter (exec (.encStart .audio true (List.replicate 32 0)) fresh) = some 0x0000045D := by
  decide
theorem test_encFeed_short : statusAfter (exec (.encFeed (List.replicate 15 0)) (encLive false)) = some 0x0F000415 := by decide
theorem test_encFeed_completes_a_block :
    fieldAfter (fun t => (t.emitted, t.out.length, t.pend))
      (exec (.encFeed [0]) { encLive false with pend := List.replicate 15 0, consumed := 15 }) = some (16, 16, []) := by decide
theorem test_encEnd : statusAfter (exec .encEnd (encLive true)) = some 0x00000700 := by decide
/-- W1: 11 bytes give 26. -/
theorem test_encEnd_length :
    fieldAfter (fun t => (t.out.length, t.emitted, t.keysValid))
      (exec .encEnd { encLive false with pend := List.replicate 11 0, consumed := 11 }) = some (26, 26, false) := by decide
theorem test_decStart : statusAfter (exec (.decStart .image (List.replicate 32 0)) fresh) = some 0x00000416 := by decide
theorem test_decStart_length : statusAfter (exec (.decStart .image []) fresh) = some 0x00501400 := by decide
/-- V-DP-4. -/
theorem test_decFeed_split :
    fieldAfter (fun t => (t.spool, t.tail))
      (exec (.decFeed [0x00, 0x11, 0x22, 0x33, 0x44, 0x55, 0x66, 0x77, 0x88, 0x99, 0xAA, 0xBB, 0xCC]) decLive) =
      some ([0x00, 0x11, 0x22], [0x33, 0x44, 0x55, 0x66, 0x77, 0x88, 0x99, 0xAA, 0xBB, 0xCC]) := by decide
/-- V-DP-16. -/
theorem test_decFeed_overflow :
    statusAfter (exec (.decFeed (List.replicate 27 0)) { decLive with params := { unitAccess := true, spoolCap := some 16 } }) =
      some 0x0051A416 := by decide
/-- V-DP-5. -/
theorem test_decEnd_short : statusAfter (exec .decEnd (decFed [] (List.replicate 5 0))) = some 0x05526416 := by decide
/-- V-EP-9: a start in a running pipeline. -/
theorem test_decStart_in_enc : statusAfter (exec (.decStart .image (List.replicate 32 0)) (encLive false)) = some 0x00509415 := by
  decide
theorem test_abort : statusAfter (exec .abort { encLive true with out := [1], consumed := 20 }) = some 0x00000400 := by decide

/-! ### Pure functions -/

/-- R123: 11 bytes get five bytes `05`, none get sixteen bytes `10`. -/
theorem test_pkcs7Pad :
    pkcs7Pad (List.replicate 11 1) = List.replicate 11 1 ++ [5, 5, 5, 5, 5] ∧ pkcs7Pad [] = List.replicate 16 16 := by decide
/-- R124: the pad byte is 1 to 16 and all its bytes agree. -/
theorem test_pkcs7Unpad_rejects :
    [pkcs7Unpad (List.replicate 16 0), pkcs7Unpad (List.replicate 16 17), pkcs7Unpad (List.replicate 15 3 ++ [4]),
      pkcs7Unpad (List.replicate 15 3 ++ [1])] = [none, none, none, some (List.replicate 15 3)] := by decide
/-- W7, the windows at their boundaries. -/
theorem test_windowCount :
    [0, 16, 65536, 65551, 65552, 131072, 131088, 200016].map windowCount = [0, 1, 1, 1, 2, 2, 3, 4] := by decide
/-- V-SC-3, V-SC-5: a window is tagged when its last byte has come. -/
theorem test_tagWindows_boundary (mk : Key) :
    (tagWindows mk (List.replicate 65551 0)).count = 0 ∧ (tagWindows mk (List.replicate 65552 0)).count = 1 := by
  simp only [tagWindows_eq, fullWindows, List.length_replicate]; decide
theorem test_tagDiff_sees_the_last_byte : ctEq10 (List.replicate 10 7) (List.replicate 9 7 ++ [6]) = false := by decide

/-! ### Witnesses: a state and operands that meet each statement's hypotheses -/

theorem witness_DecodedWordIsTheEncoding : decode 0x00000020 [] = .ok .macNew ∧ Instr.macNew ≠ .abort :=
  ⟨rfl, by decide⟩

theorem witness_StepRunsTheDecodedCommand :
    ({ fresh with pending := [.submit 0x20 []] } : State).pending = .submit 0x20 [] :: [] ∧ payloadWf [] = true ∧
      decode 0x20 [] = .ok .macNew := ⟨rfl, rfl, rfl⟩

theorem witness_UndecodableWordsAreIllegal :
    ({ fresh with pending := [.submit 0x3 []] } : State).pending = .submit 0x3 [] :: [] ∧ payloadWf [] = true ∧
      decode 0x3 [] = .error .undefinedOpcode ∧ fresh.err = none ∧
      ({ fresh with err := some .sequenceError } : State).err ≠ none := ⟨rfl, rfl, rfl, rfl, by decide⟩

theorem witness_ErrorStateObeysOnlyAbort :
    let s : State := { fresh with pending := [.submit 0xFF [], .submit 0x1FF []], err := some .sequenceError }
    s.pending = .submit 0xFF [] :: [.submit 0x1FF []] ∧ payloadWf [] = true ∧ s.err ≠ none := by decide

theorem witness_HostTransactionsComplete :
    ({ fresh with pending := [.readReg 0x44] } : State).pending = .readReg 0x44 :: [] ∧
    ({ fresh with pending := [.writeReg 0 0] } : State).pending = .writeReg 0 0 :: [] ∧
    ({ fresh with pending := [.drainOut 1], out := [1] } : State).pending = .drainOut 1 :: [] ∧
    ({ fresh with pending := [.drainSco 1], sco := [1] } : State).pending = .drainSco 1 :: [] := ⟨rfl, rfl, rfl, rfl⟩

theorem witness_AbortAndResetRestoreTheResetState : payloadWf [1] = true := rfl

theorem witness_RegisterMapReads : (0x43 % 4 ≠ 0 ∨ 0x44 < 0x43) ∧ (0x48 % 4 ≠ 0 ∨ 0x44 < 0x48) := by decide

theorem witness_RegistersExposeNoSecret :
    SameRegisterView keyed { keyed with cipherKey := Vector.replicate 32 1, chain := Vector.replicate 16 1 } := by
  constructor <;> rfl

theorem witness_ErrorsArePrecise :
    (∃ t, fresh.err = none ∧ submit 0x101 [] fresh = .next t ∧ t.err = some .invalidKeyLength) ∧
    (∃ t, fresh.err = none ∧ submit 0x3 [] fresh = .next t ∧ t.err = some .illegalCommand) :=
  ⟨⟨_, rfl, rfl, rfl⟩, ⟨_, rfl, rfl, rfl⟩⟩

theorem witness_TheFirstErrorLatches :
    let s : State := { fresh with err := some .sequenceError, pending := [.submit 0x41 []] }
    ∃ t, s.err = some .sequenceError ∧ step s = .next t := ⟨_, rfl, rfl⟩

theorem witness_TheFirstErrorLatches_abort :
    let s : State := { fresh with err := some .sequenceError, pending := [.submit 0xFF []] }
    ∃ t, s.err = some .sequenceError ∧ step s = .next t ∧ t.err = none := ⟨_, rfl, rfl, rfl⟩

theorem witness_CommandsRaiseOnlyTheirErrors :
    (∃ t, exec (.kdf .image []) fresh = .next t ∧ t.err = some .invalidKeyLength) ∧
    (∃ t, exec (.encFeed []) fresh = .next t ∧ t.err = some .sequenceError) ∧
    (∃ t, exec .macNew (engine false none) = .next t ∧ t.err = some .illegalCommand) :=
  ⟨⟨_, rfl, rfl⟩, ⟨_, rfl, rfl⟩, ⟨_, rfl, rfl⟩⟩

theorem witness_AccessThenModeAreCheckedFirst :
    (engine false none).err = none ∧ Instr.macNew.opcode.isUnit = true ∧ (engine false none).params.unitAccess = false ∧
    (encLive false).err = none ∧ (Instr.macNew.opcode.isUnit = true → (encLive false).params.unitAccess = true) ∧
    modeLegal Instr.macNew.opcode (encLive false).mode = false := by decide

theorem witness_WrongKeyLengthIsRaised :
    Accepts .kdf fresh ∧ Accepts .keysLoad fresh ∧ Accepts .encStart fresh ∧ Accepts .decStart fresh ∧
    (List.replicate 31 (0 : Byte)).length ≠ 32 ∧ (List.replicate 33 (0 : Byte)).length ≠ 32 ∧
    (List.replicate 79 (0 : Byte)).length ≠ 80 ∧ (List.replicate 81 (0 : Byte)).length ≠ 80 := by decide

theorem witness_MissingKeysAreASequenceError :
    Accepts (Instr.cbcEnc true true []).opcode fresh ∧ Accepts (Instr.cbcDec true true []).opcode fresh ∧
    Accepts Instr.macNew.opcode fresh ∧ Accepts Instr.scNew.opcode fresh ∧ fresh.keysValid = false := by decide

theorem witness_ContextLifecycleErrors :
    Accepts (Instr.macUpdate []).opcode keyed ∧ keyed.macSt = .none ∧
    Accepts Instr.macFinal.opcode { macLive with macSt := .final } ∧
    Accepts (Instr.scFeed []).opcode keyed ∧ keyed.scSt = .none ∧
    Accepts Instr.scFinal.opcode { scLive with scSt := .final } := by decide

/-- One byte short of a full window. -/
def shortWindow : Bytes := List.replicate 65551 0

theorem length_shortWindow : shortWindow.length = 65551 := List.length_replicate

/-- One byte more than `SC_END` holds; one window more than `SC_COUNT` holds; the window that `SC_NEXT` cannot pass. -/
theorem witness_CounterOverflowIsRefused_scFeed :
    (∀ s ∈ [{ scLive with scEnd := -1 }, { scLive with scBuf := shortWindow, scCount := -1 },
        { scLive with scBuf := shortWindow, scNext := -65536 }],
      Accepts .scFeed s ∧ s.scSt = .active ∧ SidecarOverflows [(0 : Byte)].length s) := by
  intro s hs
  simp only [List.mem_cons, List.not_mem_nil, or_false] at hs
  rcases hs with rfl | rfl | rfl
  · exact ⟨by decide, rfl, .inl (by decide)⟩
  · exact ⟨by decide, rfl, .inr (.inl (by simp only [length_shortWindow]; decide))⟩
  · exact ⟨by decide, rfl, .inr (.inr (by simp only [length_shortWindow]; decide))⟩

/-- The trailing window that `SC_COUNT` cannot hold. -/
theorem witness_CounterOverflowIsRefused_scFinal :
    let s := { scLive with scEnd := 1, scCount := -1 }
    Accepts .scFinal s ∧ s.scSt = .active ∧ s.scNext.toNat < s.scEnd.toNat ∧ 2 ^ 64 ≤ s.scCount.toNat + 1 := by decide

/-- One byte more than `CONSUMED` holds, one block more than `EMITTED` holds, and a block that `SC_END` cannot hold. -/
theorem witness_CounterOverflowIsRefused_encFeed :
    (let s := { encLive false with consumed := -1 };
      Accepts .encFeed s ∧ 2 ^ 64 ≤ s.consumed.toNat + [(0 : Byte)].length) ∧
    (let s := { encLive false with pend := List.replicate 15 0, emitted := -16 };
      Accepts .encFeed s ∧ 2 ^ 64 ≤ s.emitted.toNat + 16 * ((s.pend ++ [0]).length / 16)) ∧
    (let s := { encLive true with pend := List.replicate 15 0, scEnd := -16 };
      Accepts .encFeed s ∧ 0 < 16 * ((s.pend ++ [0]).length / 16) ∧ s.scEn = true ∧
        SidecarOverflows (16 * ((s.pend ++ [0]).length / 16)) s) := by decide

/-- The last block and the trailer are 26 bytes; the other two are a block that `SC_END` cannot hold, and a trailing window
that `SC_COUNT` cannot hold though the feed of the block fits. -/
theorem witness_CounterOverflowIsRefused_encEnd :
    (let s := { encLive false with emitted := -26 };
      Accepts .encEnd s ∧ 2 ^ 64 ≤ s.emitted.toNat + 16 * (s.pend.length / 16 + 1) + 10) ∧
    (let s := { encLive true with scEnd := -16 };
      Accepts .encEnd s ∧ s.scEn = true ∧ SidecarOverflows (16 * (s.pend.length / 16 + 1)) s) ∧
    (let s := { encLive true with scCount := -1 };
      let n := 16 * (s.pend.length / 16 + 1);
      let w := fullWindows (s.scBuf.length + n);
      Accepts .encEnd s ∧ s.scEn = true ∧ ¬ SidecarOverflows n s ∧
        s.scNext.toNat + 65536 * w < s.scEnd.toNat + n ∧ 2 ^ 64 ≤ s.scCount.toNat + w + 1) := by decide

/-- One byte more than `CONSUMED` holds, which the spool could take. -/
theorem witness_CounterOverflowIsRefused_decFeed :
    let s := { decLive with consumed := -1 }
    Accepts .decFeed s ∧ spoolFits s.params.spoolCap (s.spool.length + (s.tail.length + [(0 : Byte)].length - 10)) = true ∧
      2 ^ 64 ≤ s.consumed.toNat + [(0 : Byte)].length := by decide

/-- The refusal clause has a case. -/
theorem witness_CounterOverflowIsRefused_only :
    exec .scFinal { scLive with scEnd := 1, scCount := -1 } = .refused .counterOverflow := rfl

theorem witness_KdfLoadsAndEmitsTheKeys : Accepts .kdf fresh ∧ (List.replicate 32 (0 : Byte)).length = 32 := by decide

theorem witness_KeysLoadInstallsThePayload : Accepts .keysLoad fresh ∧ (List.replicate 80 (0 : Byte)).length = 80 := by decide

theorem witness_OnlyKeyCommandsWriteKeys :
    ∃ t, exec .macNew keyed = .next t ∧
      Instr.macNew.opcode ∉ [.kdf, .keysLoad, .encStart, .decStart, .encEnd, .decEnd, .abort] := ⟨_, rfl, by decide⟩

theorem witness_CbcRecurrences : ([] : Bytes).length % 16 = 0 ∧ (List.replicate 32 (0 : Byte)).length % 16 = 0 := by decide

theorem witness_UnpadAcceptsExactlyPaddedStrings : (List.replicate 16 (16 : Byte)).length % 16 = 0 := by decide

theorem witness_CbcEncEncryptsAndChains :
    Accepts .cbcEnc keyed ∧ keyed.keysValid = true ∧
      (false = false → 0 < (List.replicate 16 (0 : Byte)).length ∧ (List.replicate 16 (0 : Byte)).length % 16 = 0) ∧
      (true = false → 0 < ([] : Bytes).length ∧ ([] : Bytes).length % 16 = 0) := by decide

theorem witness_CbcDecDecryptsAndChains :
    Accepts .cbcDec keyed ∧ keyed.keysValid = true ∧ 0 < (sealed []).length ∧ (sealed []).length % 16 = 0 ∧
    pkcs7Unpad (cbcDecBlocks keyed.cipherKey keyed.iv (sealed [])).1 = some [] ∧
    0 < unpadded.length ∧ unpadded.length % 16 = 0 ∧
    pkcs7Unpad (cbcDecBlocks keyed.cipherKey keyed.iv unpadded).1 = none := by
  refine ⟨by decide, by decide, ?_, ?_, unpad_sealed [], ?_, ?_, unpad_unpadded⟩ <;>
    simp [length_sealed, length_unpadded]

theorem witness_UnalignedInputIsRaised :
    keyed.keysValid = true ∧ Accepts .cbcEnc keyed ∧ Accepts .cbcDec keyed ∧ ([] : Bytes).length = 0 ∧
      (List.replicate 15 (0 : Byte)).length % 16 ≠ 0 ∧ (List.replicate 17 (0 : Byte)).length % 16 ≠ 0 := by decide

theorem witness_ChainingSplitLaw :
    let a : Bytes := List.replicate 16 0
    0 < a.length ∧ a.length % 16 = 0 ∧ keyed.keysValid = true ∧ Accepts .cbcEnc keyed ∧ Accepts .cbcDec keyed ∧
      (false = false → 0 < a.length ∧ a.length % 16 = 0) := by decide

/-- The final decryption: two blocks of a padded string. -/
theorem witness_ChainingSplitLaw_final :
    let c := sealed (List.replicate 16 0)
    0 < (c.take 16).length ∧ (c.take 16).length % 16 = 0 ∧ 0 < (c.drop 16).length ∧ (c.drop 16).length % 16 = 0 ∧
      pkcs7Unpad (cbcDecBlocks keyed.cipherKey keyed.iv (c.take 16 ++ c.drop 16)).1 ≠ none := by
  intro c
  have h : c.length = 32 := length_sealed _
  refine ⟨?_, ?_, ?_, ?_, ?_⟩
  · rw [List.length_take]; omega
  · rw [List.length_take]; omega
  · rw [List.length_drop]; omega
  · rw [List.length_drop]; omega
  · rw [List.take_append_drop, unpad_sealed]; simp

theorem witness_SealThenOpenReturnsThePayload :
    Accepts .cbcEnc keyed ∧ keyed.keysValid = true ∧ Accepts .cbcDec macLive ∧ macLive.keysValid = true ∧
      macLive.cipherKey = keyed.cipherKey ∧ macLive.iv = keyed.iv := by decide

theorem witness_OnlyChainingCommandsWriteChain :
    (∃ t, exec .macNew keyed = .next t ∧ Instr.macNew.opcode ∉
      [.cbcEnc, .cbcDec, .kdf, .keysLoad, .encStart, .encFeed, .encEnd, .decStart, .decEnd, .abort]) ∧
    (∃ t, exec .abort keyed = .next t ∧ keyed.err = none ∧ t.err = none) ∧
    (∃ t, exec (.keysLoad (List.replicate 80 0)) fresh = .next t ∧ fresh.err = none ∧ t.err = none) :=
  ⟨⟨_, rfl, by decide⟩, ⟨_, rfl, rfl, rfl⟩, ⟨_, rfl, rfl, rfl⟩⟩

theorem witness_MacAccumulatorStartsAndGrows :
    Accepts .macNew keyed ∧ keyed.keysValid = true ∧ Accepts .macUpdate macLive ∧ macLive.macSt = .active := by decide

theorem witness_MacFinalAndVerifyUseTheTruncatedHmac :
    macLive.macSt = .active ∧ Accepts .macFinal macLive ∧ Accepts .macVerify macLive := by decide

theorem witness_MacVerifyRejectsEveryOtherTag :
    Accepts .macVerify macLive ∧ macLive.macSt = .active ∧ (List.replicate 9 (0 : Byte)).length ≠ 10 ∧
      (List.replicate 11 (0 : Byte)).length ≠ 10 ∧
      (otherTag (tag10 macLive.macKey macLive.macMsg)).length = 10 ∧
      otherTag (tag10 macLive.macKey macLive.macMsg) ≠
        (bytesOf (Config.hmac (bytesOf macLive.macKey) macLive.macMsg)).take 10 :=
  ⟨by decide, rfl, by decide, by decide, (otherTag_ne _).2, (otherTag_ne _).1⟩

theorem witness_MacUpdatesAreChunkIndependent : [([] : Bytes)] ≠ [] ∧ [[1], [2, 3], ([] : Bytes)] ≠ [] := by decide

/-- A feed that reaches the largest counter value, and one that completes a window. -/
theorem witness_SidecarFeedTagsFullWindows :
    (Accepts .scFeed { scLive with scEnd := -2 } ∧ ({ scLive with scEnd := -2 } : State).scSt = .active ∧
      SidecarCountersFit [0] { scLive with scEnd := -2 }) ∧
    SidecarCountersFit (List.replicate 65552 0) scLive := by
  refine ⟨⟨by decide, rfl, by decide⟩, ?_⟩
  simp only [SidecarCountersFit, fullWindows, List.length_replicate]
  decide

theorem witness_SidecarContextStartsAndReleases :
    Accepts .scNew keyed ∧ keyed.keysValid = true ∧ Accepts .scFinal { scLive with scCount := -2 } ∧
      ({ scLive with scCount := -2 } : State).scSt = .active ∧
      ({ scLive with scCount := -2 } : State).scCount.toNat + 1 < 2 ^ 64 := by decide

theorem witness_SidecarClosedForm :
    Accepts .scNew keyed ∧ keyed.keysValid = true ∧ ([] : Bytes).length < 2 ^ 64 ∧ [(0 : Byte)].length < 2 ^ 64 := by decide

theorem witness_SidecarFeedsAreChunkIndependent : [[0], ([] : Bytes)] ≠ [] := by decide

theorem witness_StreamsOnlyGrow :
    (∃ t, exec .scFinal { scLive with scEnd := 1, scBuf := [0] } = .next t ∧ Instr.scFinal ≠ .abort ∧ t.sco ≠ []) := by
  refine ⟨_, rfl, by decide, fun h => ?_⟩
  have h2 : (tag10 scLive.macKey [0]).length = 0 := congrArg List.length h
  rw [length_tag10] at h2
  cases h2

theorem witness_EncStartConstructsThePipeline : Accepts .encStart fresh ∧ (List.replicate 32 (0 : Byte)).length = 32 := by
  decide

/-- The counters reach their largest value. -/
theorem witness_EncFeedEncryptsFullBlocks :
    let s : State := { encLive true with emitted := -17, consumed := -17, scEnd := -17 }
    let p : Bytes := List.replicate 16 0
    let buf := s.pend ++ p
    let n := 16 * (buf.length / 16)
    let r := cbcEncBlocks s.cipherKey s.chain (buf.take n)
    Accepts .encFeed s ∧ s.emitted.toNat + n < 2 ^ 64 ∧ s.consumed.toNat + p.length < 2 ^ 64 ∧
      (s.scEn = true → s.scBuf.length < 65552 ∧ SidecarCountersFit r.1 s) := by
  intro s p buf n r
  have h : r.1.length = 16 := (length_cbcEncBlocks _ _ _).trans (by decide)
  refine ⟨by decide, by decide, by decide, fun _ => ⟨by decide, ?_⟩⟩
  simp only [SidecarCountersFit, h]
  decide

theorem witness_EncEndSealsTheMessage :
    let s : State := encLive true
    let y := (cbcEncBlocks s.cipherKey s.chain (pkcs7Pad s.pend)).1
    Accepts .encEnd s ∧ s.emitted.toNat + y.length + 10 < 2 ^ 64 ∧
      (s.scEn = true → SidecarCountersFit y s ∧ (sidecarFed y s).scCount.toNat + 1 < 2 ^ 64) := by
  intro s y
  have h : y.length = 16 := (length_cbcEncBlocks _ _ _).trans (by decide)
  have hc : (sidecarFed y s).scCount = BitVec.ofNat 64 (0 + fullWindows ([] ++ y).length) := rfl
  refine ⟨by decide, by rw [h]; decide, fun _ => ⟨?_, by rw [hc, List.nil_append, h]; decide⟩⟩
  simp only [SidecarCountersFit, h]
  decide

theorem witness_EncryptPipelineWireFormat :
    Accepts .encStart fresh ∧ (List.replicate 32 (0 : Byte)).length = 32 ∧ ([] : Bytes).length + 26 < 2 ^ 64 := by decide

theorem witness_DecStartConstructsThePipeline : Accepts .decStart fresh ∧ (List.replicate 32 (0 : Byte)).length = 32 := by
  decide

/-- A spool of 16 bytes: 26 bytes fit, to the largest counter value, and 27 do not. -/
theorem witness_DecFeedWithholdsTheTrailer :
    let s : State := { decLive with params := { unitAccess := true, spoolCap := some 16 }, consumed := -27 }
    Accepts .decFeed s ∧
    (spoolFits s.params.spoolCap (s.spool.length + ((s.tail ++ List.replicate 26 0).length - 10)) = true ∧
      s.consumed.toNat + (List.replicate 26 (0 : Byte)).length < 2 ^ 64) ∧
    spoolFits s.params.spoolCap (s.spool.length + ((s.tail ++ List.replicate 27 0).length - 10)) = false := by decide

theorem accepts_decEnd (c t : Bytes) : Accepts .decEnd (decFed c t) := ⟨rfl, fun _ => rfl, rfl⟩

theorem witness_DecEndReleasesThePlaintext :
    let s := decFed (sealed [7]) (tagOf (sealed [7]))
    Accepts .decEnd s ∧ 10 ≤ s.consumed.toNat ∧ s.tail = tag10 s.macKey s.macMsg ∧ 0 < s.spool.length ∧
      s.spool.length % 16 = 0 ∧ pkcs7Unpad (cbcDecBlocks s.cipherKey s.iv s.spool).1 = some [7] ∧
      ([7] : Bytes).length < 2 ^ 64 := by
  have h : (sealed [7]).length = 16 := length_sealed _
  have ht : (tagOf (sealed [7])).length = 10 := length_tag10 _ _
  refine ⟨accepts_decEnd _ _, ?_, rfl, ?_, ?_, unpad_sealed [7], by decide⟩
  · simp only [decFed, h, ht]; decide
  · simp only [decFed, h]; decide
  · simp only [decFed, h]

/-- A plaintext of 2^64 bytes, one more than `EMITTED` holds, under its own tag. -/
theorem witness_CounterOverflowIsRefused_decEnd :
    let x : Bytes := List.replicate (2 ^ 64) 0
    let s := { decFed (sealed x) (tagOf (sealed x)) with consumed := 10 }
    Accepts .decEnd s ∧ 10 ≤ s.consumed.toNat ∧ s.tail = tag10 s.macKey s.macMsg ∧ 0 < s.spool.length ∧
      s.spool.length % 16 = 0 ∧ pkcs7Unpad (cbcDecBlocks s.cipherKey s.iv s.spool).1 = some x ∧ 2 ^ 64 ≤ x.length := by
  intro x s
  have h : s.spool.length = 16 * (x.length / 16 + 1) := length_sealed x
  exact ⟨accepts_decEnd (sealed x) (tagOf (sealed x)), Nat.le_refl 10, rfl, by rw [h]; omega, by rw [h]; omega, unpad_sealed x,
    Nat.le_of_eq List.length_replicate.symm⟩

/-- Nine bytes are no trailer, ten may be. -/
theorem witness_DecEndErrorsInOrder_length :
    Accepts .decEnd (decFed [] (List.replicate 9 0)) ∧ (decFed [] (List.replicate 9 0)).consumed.toNat < 10 ∧
      10 ≤ (decFed [] (List.replicate 10 0)).consumed.toNat := ⟨accepts_decEnd _ _, by decide, by decide⟩

theorem witness_DecEndErrorsInOrder_mismatch :
    let s := decFed [] (otherTag (tagOf []))
    Accepts .decEnd s ∧ 10 ≤ s.consumed.toNat ∧ s.tail ≠ tag10 s.macKey s.macMsg := by
  refine ⟨accepts_decEnd _ _, ?_, (otherTag_ne _).1⟩
  simp only [decFed, (otherTag_ne _).2]; decide

/-- The tag of no ciphertext, and the tag of 15 bytes. -/
theorem witness_DecEndErrorsInOrder_unaligned :
    let s := decFed [] (tagOf [])
    let s' := decFed (List.replicate 15 0) (tagOf (List.replicate 15 0))
    (Accepts .decEnd s ∧ 10 ≤ s.consumed.toNat ∧ s.tail = tag10 s.macKey s.macMsg ∧ s.spool.length = 0) ∧
    (Accepts .decEnd s' ∧ 10 ≤ s'.consumed.toNat ∧ s'.tail = tag10 s'.macKey s'.macMsg ∧ s'.spool.length % 16 ≠ 0) := by
  have ht : ∀ c, (tagOf c).length = 10 := fun _ => length_tag10 _ _
  refine ⟨⟨accepts_decEnd _ _, ?_, rfl, rfl⟩, ⟨accepts_decEnd _ _, ?_, rfl, by decide⟩⟩ <;>
    simp only [decFed, ht] <;> decide

theorem witness_DecEndErrorsInOrder_padding :
    let s := decFed unpadded (tagOf unpadded)
    Accepts .decEnd s ∧ 10 ≤ s.consumed.toNat ∧ s.tail = tag10 s.macKey s.macMsg ∧ 0 < s.spool.length ∧
      s.spool.length % 16 = 0 ∧ pkcs7Unpad (cbcDecBlocks s.cipherKey s.iv s.spool).1 = none := by
  have ht : (tagOf unpadded).length = 10 := length_tag10 _ _
  refine ⟨accepts_decEnd _ _, ?_, rfl, ?_, ?_, unpad_unpadded⟩
  · simp only [decFed, length_unpadded, ht]; decide
  · simp only [decFed, length_unpadded]; decide
  · simp only [decFed, length_unpadded]

theorem witness_NoPlaintextBeforeVerification :
    ∃ t : State, (decFed (sealed [7]) (tagOf (sealed [7]))).mode = .dec ∧ Instr.decEnd ≠ .abort ∧
      exec .decEnd (decFed (sealed [7]) (tagOf (sealed [7]))) = .next t ∧
      t.out ≠ (decFed (sealed [7]) (tagOf (sealed [7]))).out := by
  obtain ⟨h1, h2, h3, h4, h5, h6, h7⟩ := witness_DecEndReleasesThePlaintext
  have hc : ctEq10 (macTag (decFed (sealed [7]) (tagOf (sealed [7])))) (decFed (sealed [7]) (tagOf (sealed [7]))).tail = true :=
    (ctEq10_tag10 _ _ _).2 h3
  have hb : bodyOf .decEnd (decFed (sealed [7]) (tagOf (sealed [7]))) =
      .ok (endPipeline { emitOut [7] (decFed (sealed [7]) (tagOf (sealed [7]))) with emitted := 1 }) := by
    simp only [bodyOf, decEndBody, decide_eq_true (show Config.tagLen ≤ _ from h2), hc, (wholeBlocks_iff _).2 ⟨h4, h5⟩,
      unpadOrRaise_eq_ok.2 h6, require_true, bind_ok, pure_eq_ok]
    rfl
  exact ⟨_, rfl, by decide, exec_of_body_ok (i := .decEnd) h1 (by decide) hb, by decide⟩

theorem witness_DecryptionInvertsEncryption :
    Accepts .encStart fresh ∧ (List.replicate 32 (0 : Byte)).length = 32 ∧ ([] : Bytes).length + 26 < 2 ^ 64 ∧
      Accepts .decStart fresh ∧ ∀ n, spoolFits fresh.params.spoolCap n = true :=
  ⟨by decide, by decide, by decide, by decide, fun _ => rfl⟩

theorem witness_DecryptFeedsAreChunkIndependent :
    [[1], ([] : Bytes)] ≠ [] ∧ Accepts .decFeed { decLive with consumed := -2 } ∧
      ({ decLive with consumed := -2 } : State).consumed.toNat + [[1], ([] : Bytes)].flatten.length < 2 ^ 64 := by decide

/-- A spool of 16 bytes: 26 bytes fill it, and one more, in a second feed, overflows it. -/
theorem witness_DecryptFeedsAreChunkIndependent_overflow :
    let s : State := { decLive with params := { unitAccess := true, spoolCap := some 16 } }
    let fits : List Bytes := [List.replicate 25 0, [0]]
    let tooMany : List Bytes := [List.replicate 26 0, [0]]
    Accepts .decFeed s ∧ fits ≠ [] ∧ tooMany ≠ [] ∧ s.consumed.toNat + tooMany.flatten.length < 2 ^ 64 ∧
      (∃ t, exec (.decFeed fits.flatten) s = .next t ∧ t.err = none ∧ t.spool.length = 16) ∧
      (∃ t, exec (.decFeed tooMany.flatten) s = .next t ∧ t.err = some .spoolOverflow) ∧
      (∃ t, execAll (tooMany.map .decFeed) s = .next t ∧ t.err = some .spoolOverflow) :=
  ⟨by decide, by decide, by decide, by decide, ⟨_, rfl, rfl, rfl⟩, ⟨_, rfl, rfl⟩, ⟨_, rfl, rfl⟩⟩

theorem witness_TamperedTrailerIsRejected :
    let k := derivedKeys (List.replicate 32 0) .image
    let other := otherTag (tag10 k.macKey (bytesOf k.iv ++ [1]))
    Accepts .decStart fresh ∧ (List.replicate 32 (0 : Byte)).length = 32 ∧
      ([(1 : Byte)].length + other.length < 2 ^ 64 ∧ spoolFits fresh.params.spoolCap [(1 : Byte)].length = true ∧
        other.length = 10 ∧ other ≠ tag10 k.macKey (bytesOf k.iv ++ [1])) ∧
      (([] : Bytes).length + (List.replicate 9 (0 : Byte)).length < 2 ^ 64 ∧
        spoolFits fresh.params.spoolCap ([] : Bytes).length = true ∧ (List.replicate 9 (0 : Byte)).length < 10) := by
  intro k other
  have h : other.length = 10 := (otherTag_ne _).2
  exact ⟨by decide, by decide, ⟨by rw [h]; decide, rfl, h, (otherTag_ne _).1⟩, by decide⟩

/-- The invariants hold in a state other than reset, and a step leaves it. -/
theorem witness_StepKeepsTheInvariants :
    State.Inv { keyed with pending := [.submit 0x20 []] } ∧
      ∃ t, step { keyed with pending := [.submit 0x20 []] } = .next t ∧ t.macSt = .active := by
  refine ⟨?_, ⟨_, rfl, rfl⟩⟩
  constructor <;> decide

theorem witness_ParametersNeverChange : ∃ t, step { fresh with pending := [.reset] } = .next t := ⟨_, rfl⟩

theorem witness_OnlyPipelineCommandsWriteMode :
    (∃ t, exec (.encStart .image true (List.replicate 32 0)) fresh = .next t ∧ t.mode ≠ fresh.mode) ∧
    (∃ t, exec (.decStart .image (List.replicate 32 0)) fresh = .next t ∧ t.mode ≠ fresh.mode) ∧
    (∃ t, exec .abort (encLive true) = .next t ∧ t.mode ≠ (encLive true).mode) := by
  refine ⟨⟨_, rfl, ?_⟩, ⟨_, rfl, ?_⟩, ⟨_, rfl, ?_⟩⟩ <;> decide

theorem witness_OnlyPipelineCommandsWriteTheCursor :
    (∃ t, exec .macNew keyed = .next t ∧ Instr.macNew.opcode ∉ [.encStart, .encFeed, .decStart, .decFeed, .abort] ∧
      Instr.macNew.opcode ∉ [.encStart, .encFeed, .encEnd, .decStart, .decEnd, .abort] ∧
      Instr.macNew.opcode ∉ [.encStart, .encEnd, .decStart, .decEnd, .abort]) ∧
    (∃ t, exec .encEnd (encLive false) = .next t ∧ (encLive false).err = none ∧ t.err = none) ∧
    (∃ t, exec .abort keyed = .next t ∧ keyed.err = none ∧ t.err = none) :=
  ⟨⟨_, rfl, by decide, by decide, by decide⟩, ⟨_, rfl, rfl, rfl⟩, ⟨_, rfl, rfl, rfl⟩⟩

end Sys2Proof.Tests
end

section
/-! PROOFS. Counter overflow (00_scope.md R9, log 8). Every way a command's pseudocode can stop is listed once, per opcode;
a command that lists no error of its own and cannot complete is then refused. -/

namespace Sys2Proof.Machine

open Sys2Proof

/-! ### How a command's pseudocode can stop (R9, R244) -/

/-- The commands that write a sum to a 64-bit counter. -/
def countingOpcodes : List Opcode := [.scFeed, .scFinal, .encFeed, .encEnd, .decFeed, .decEnd]

/-- The stops of a command's own pseudocode: its errors (R244), and for a command that counts the refusal of R9. -/
def stopsOf (op : Opcode) : List Stop :=
  (ownErrors op).map .raise ++ if op ∈ countingOpcodes then [.refuse .counterOverflow] else []

/-- A refusal among the stops is an overflow, and the command counts. -/
theorem refuse_mem_stopsOf {op : Opcode} {r : Refusal} (h : .refuse r ∈ stopsOf op) :
    r = .counterOverflow ∧ op ∈ countingOpcodes := by
  by_cases hc : op ∈ countingOpcodes
  · exact ⟨by simpa [stopsOf, hc] using h, hc⟩
  · simp [stopsOf, hc] at h

/-- Pseudocode of the opcode `op` that stops as `stopsOf op` lists, if it stops. -/
def StopsAs {α : Type} (op : Opcode) (x : Result α) : Prop := ∀ e, x = .error e → e ∈ stopsOf op

section
variable {α β : Type} {op : Opcode}

theorem stopsAs_ok (a : α) : StopsAs op (.ok a : Result α) := nofun

theorem StopsAs.bind {x : Result α} {f : α → Result β} (hx : StopsAs op x) (hf : ∀ a, StopsAs op (f a)) :
    StopsAs op (x >>= f) := by
  intro e he
  rcases bind_eq_error.1 he with h | ⟨a, -, h⟩
  · exact hx e h
  · exact hf a e h

theorem stopsAs_require {c : Bool} {e : EngineError} (h : .raise e ∈ stopsOf op) : StopsAs op (require c e) := by
  intro x hx
  obtain ⟨-, rfl⟩ := require_eq_error.1 hx
  exact h

theorem stopsAs_derive {p : Bytes} {mt : MediaType} (h : .raise .invalidKeyLength ∈ stopsOf op) :
    StopsAs op (derive p mt) := (stopsAs_require h).bind fun _ => stopsAs_ok _

theorem stopsAs_requireLive {st : Lifecycle} (h : .raise .sequenceError ∈ stopsOf op)
    (h' : .raise .useAfterFinalize ∈ stopsOf op) : StopsAs op (requireLive st) :=
  (stopsAs_require h).bind fun _ => stopsAs_require h'

theorem stopsAs_unpadOrRaise {x : Bytes} (h : .raise .invalidPadding ∈ stopsOf op) : StopsAs op (unpadOrRaise x) := by
  intro e he
  obtain ⟨-, rfl⟩ := unpadOrRaise_eq_error.1 he
  exact h

theorem stopsAs_cbcDecOutput {f : Bool} {x : Bytes} (h : .raise .invalidPadding ∈ stopsOf op) :
    StopsAs op (cbcDecOutput f x) := by
  cases f with
  | false => exact stopsAs_ok x
  | true => exact stopsAs_unpadOrRaise h

/-- The shape of every operation that counts: it completes, or a counter would overflow. -/
theorem stopsAs_of_eq_ite {x : Result α} {a : α} {c : Prop} [Decidable c]
    (hx : x = if c then .ok a else .error (.refuse .counterOverflow)) (h : .refuse .counterOverflow ∈ stopsOf op) :
    StopsAs op x := by
  subst hx
  split
  · exact stopsAs_ok a
  · rintro _ ⟨⟩
    exact h

theorem stopsAs_toCounter {n : Nat} (h : .refuse .counterOverflow ∈ stopsOf op) : StopsAs op (toCounter n) :=
  stopsAs_of_eq_ite rfl h

theorem stopsAs_scFeed {c : Bytes} {s : State} (h : .refuse .counterOverflow ∈ stopsOf op) : StopsAs op (scFeed c s) :=
  stopsAs_of_eq_ite (scFeed_eq c s) h

theorem stopsAs_scFinalize {s : State} (h : .refuse .counterOverflow ∈ stopsOf op) : StopsAs op (scFinalize s) :=
  stopsAs_of_eq_ite (scFinalize_eq s) h

theorem stopsAs_scFinalizeIfEnabled {s : State} (h : .refuse .counterOverflow ∈ stopsOf op) :
    StopsAs op (scFinalizeIfEnabled s) := stopsAs_of_eq_ite (scFinalizeIfEnabled_eq s) h

theorem stopsAs_encBlocks {x : Bytes} {s : State} (h : .refuse .counterOverflow ∈ stopsOf op) :
    StopsAs op (encBlocks x s) := stopsAs_of_eq_ite (encBlocks_eq x s) h

theorem stopsAs_encFullBlocks {buf : Bytes} {s : State} (h : .refuse .counterOverflow ∈ stopsOf op) :
    StopsAs op (encFullBlocks buf s) := by
  unfold encFullBlocks
  split
  · exact stopsAs_encBlocks h
  · exact stopsAs_ok s

end

/-- Every command's pseudocode stops as its opcode lists, if it stops (R9, R244). -/
theorem stopsAs_bodyOf (i : Instr) (s : State) : StopsAs i.opcode (bodyOf i s) := by
  cases i with
  | kdf mt p =>
    show StopsAs .kdf (kdfBody mt p s)
    exact (stopsAs_derive (by decide)).bind fun _ => stopsAs_ok _
  | keysLoad p =>
    show StopsAs .keysLoad (keysLoadBody p s)
    exact (stopsAs_require (by decide)).bind fun _ => stopsAs_ok _
  | cbcEnc f seed p =>
    show StopsAs .cbcEnc (cbcEncBody f seed p s)
    exact (stopsAs_require (by decide)).bind fun _ => (stopsAs_require (by decide)).bind fun _ => stopsAs_ok _
  | cbcDec f seed p =>
    show StopsAs .cbcDec (cbcDecBody f seed p s)
    exact (stopsAs_require (by decide)).bind fun _ => (stopsAs_require (by decide)).bind fun _ =>
      (stopsAs_cbcDecOutput (by decide)).bind fun _ => stopsAs_ok _
  | macNew =>
    show StopsAs .macNew (macNewBody s)
    exact (stopsAs_require (by decide)).bind fun _ => stopsAs_ok _
  | macUpdate p =>
    show StopsAs .macUpdate (macUpdateBody p s)
    exact (stopsAs_requireLive (by decide) (by decide)).bind fun _ => stopsAs_ok _
  | macFinal =>
    show StopsAs .macFinal (macFinalBody s)
    exact (stopsAs_requireLive (by decide) (by decide)).bind fun _ => stopsAs_ok _
  | macVerify p =>
    show StopsAs .macVerify (macVerifyBody p s)
    exact (stopsAs_requireLive (by decide) (by decide)).bind fun _ => (stopsAs_require (by decide)).bind fun _ =>
      (stopsAs_require (by decide)).bind fun _ => stopsAs_ok _
  | scNew =>
    show StopsAs .scNew (scNewBody s)
    exact (stopsAs_require (by decide)).bind fun _ => stopsAs_ok _
  | scFeed p =>
    show StopsAs .scFeed (scFeedBody p s)
    exact (stopsAs_requireLive (by decide) (by decide)).bind fun _ => stopsAs_scFeed (by decide)
  | scFinal =>
    show StopsAs .scFinal (scFinalBody s)
    exact (stopsAs_requireLive (by decide) (by decide)).bind fun _ => stopsAs_scFinalize (by decide)
  | encStart mt sc p =>
    show StopsAs .encStart (encStartBody mt sc p s)
    exact (stopsAs_derive (by decide)).bind fun _ => stopsAs_ok _
  | encFeed p =>
    show StopsAs .encFeed (encFeedBody p s)
    exact (stopsAs_encFullBlocks (by decide)).bind fun _ => (stopsAs_toCounter (by decide)).bind fun _ => stopsAs_ok _
  | encEnd =>
    show StopsAs .encEnd (encEndBody s)
    exact (stopsAs_encBlocks (by decide)).bind fun _ => (stopsAs_scFinalizeIfEnabled (by decide)).bind fun _ =>
      (stopsAs_toCounter (by decide)).bind fun _ => stopsAs_ok _
  | decStart mt p =>
    show StopsAs .decStart (decStartBody mt p s)
    exact (stopsAs_derive (by decide)).bind fun _ => stopsAs_ok _
  | decFeed p =>
    show StopsAs .decFeed (decFeedBody p s)
    exact (stopsAs_require (by decide)).bind fun _ => (stopsAs_toCounter (by decide)).bind fun _ => stopsAs_ok _
  | decEnd =>
    show StopsAs .decEnd (decEndBody s)
    exact (stopsAs_require (by decide)).bind fun _ => (stopsAs_require (by decide)).bind fun _ =>
      (stopsAs_require (by decide)).bind fun _ => (stopsAs_unpadOrRaise (by decide)).bind fun _ =>
      (stopsAs_toCounter (by decide)).bind fun _ => stopsAs_ok _
  | abort => exact stopsAs_ok _

/-- Only a command that counts is ever refused, and only for an overflow. -/
theorem exec_refused_overflow {i : Instr} {s : State} {r : Refusal} (h : exec i s = .refused r) :
    r = .counterOverflow ∧ i.opcode ∈ countingOpcodes := by
  obtain ⟨-, -, hb⟩ := exec_refused h
  exact refuse_mem_stopsOf (stopsAs_bodyOf i s _ hb)

/-- A command whose only stop is an overflow, and which cannot complete, is refused. -/
theorem exec_refused_of_not_ok {i : Instr} {s : State} (ha : Accepts i.opcode s)
    (hs : stopsOf i.opcode = [.refuse .counterOverflow]) (hn : ∀ t, bodyOf i s ≠ .ok t) :
    exec i s = .refused .counterOverflow := by
  have hi : i ≠ .abort := by rintro rfl; exact absurd hs (by decide)
  cases hb : bodyOf i s with
  | ok t => exact absurd hb (hn t)
  | error e =>
    have he := stopsAs_bodyOf i s e hb
    rw [hs, List.mem_singleton] at he
    exact exec_of_body_refuse ha hi (hb.trans (congrArg _ he))

/-! ### What fits when a pipeline command completes (R192, R193) -/

/-- The sidecar counters a feed of whole blocks fits in, by the length of the plaintext. -/
theorem not_sidecarOverflows_of_fit {k : Key} {c : Block} {x : Bytes} {s : State} (hx : x.length % 16 = 0)
    (h : SidecarCountersFit (cbcEncBlocks k c x).1 s) : ¬ SidecarOverflows x.length s := by
  have hl : (cbcEncBlocks k c x).1.length = x.length := by rw [length_cbcEncBlocks]; omega
  rw [← hl]
  exact sidecarCountersFit_iff_not_overflows.1 h

/-- When the full blocks of a buffer are encrypted, the counters they add to fit, and `CONSUMED` stays. -/
theorem encFullBlocks_fits {buf : Bytes} {s t : State} (h : encFullBlocks buf s = .ok t) :
    s.emitted.toNat + fullLen buf < 2 ^ 64 ∧
    (0 < fullLen buf → s.scEn = true → ¬ SidecarOverflows (fullLen buf) s) ∧ t.consumed = s.consumed := by
  by_cases hb : buf.length < 16
  · rw [encFullBlocks_of_short s hb, Except.ok.injEq] at h
    have h0 : fullLen buf = 0 := by rw [fullLen_eq]; omega
    exact ⟨by rw [h0]; exact s.emitted.isLt, fun hpos => by omega, h ▸ rfl⟩
  · rw [encFullBlocks_of_long s (Nat.le_of_not_lt hb)] at h
    obtain ⟨hsc, hem, rfl⟩ := encBlocks_ok h
    have hl := length_take_fullLen buf
    have hw : (buf.take (fullLen buf)).length % 16 = 0 := by rw [hl, fullLen_eq]; omega
    rw [length_cbcEncBlocks, hl, fullLen_eq] at hem
    refine ⟨by rw [fullLen_eq]; omega, fun _ hen => ?_, rfl⟩
    have := not_sidecarOverflows_of_fit hw (hsc hen)
    rwa [hl] at this

/-- When `ENC_FEED` completes, every counter it adds to fits (R192). -/
theorem encFeedBody_fits {p : Bytes} {s t : State} (h : encFeedBody p s = .ok t) :
    s.consumed.toNat + p.length < 2 ^ 64 ∧ s.emitted.toNat + fullLen (s.pend ++ p) < 2 ^ 64 ∧
    (0 < fullLen (s.pend ++ p) → s.scEn = true → ¬ SidecarOverflows (fullLen (s.pend ++ p)) s) := by
  simp only [encFeedBody, bind_eq_ok] at h
  obtain ⟨u, hu, c, hc, -⟩ := h
  obtain ⟨hem, hsc, hcons⟩ := encFullBlocks_fits hu
  rw [hcons] at hc
  exact ⟨(toCounter_eq_ok.1 hc).1, hem, hsc⟩

/-- When `ENC_END` completes with a sidecar, `SC_COUNT` fits the trailing window after the last blocks (R193). -/
theorem encEndBody_trailing_fits {s t : State} (h : encEndBody s = .ok t) (hen : s.scEn = true) :
    let n := (pkcs7Pad s.pend).length
    let w := fullWindows (s.scBuf.length + n)
    s.scNext.toNat + 65536 * w < s.scEnd.toNat + n → s.scCount.toNat + w + 1 < 2 ^ 64 := by
  simp only [encEndBody, bind_eq_ok] at h
  obtain ⟨u, hu, v, hv, -⟩ := h
  obtain ⟨hsc, -, rfl⟩ := encBlocks_ok hu
  obtain ⟨htrail, -⟩ := scFinalizeIfEnabled_ok hv
  obtain ⟨hend, hcount, hnext⟩ := hsc hen
  have hl : (cbcEncBlocks s.cipherKey s.chain (pkcs7Pad s.pend)).1.length = (pkcs7Pad s.pend).length := by
    rw [length_cbcEncBlocks, length_pkcs7Pad]; omega
  replace htrail := htrail hen
  simp only [delivered_scNext, delivered_scEnd, delivered_scCount, if_pos hen, sidecarFed_scNext, sidecarFed_scEnd,
    sidecarFed_scCount, BitVec.toNat_ofNat, List.length_append, Nat.mod_eq_of_lt hend, Nat.mod_eq_of_lt hcount,
    Nat.mod_eq_of_lt hnext] at htrail
  rwa [hl] at htrail

/-! ### The refusals, command by command -/

theorem scFeed_refused {p : Bytes} {s : State} (ha : Accepts .scFeed s) (hst : s.scSt = .active)
    (ho : SidecarOverflows p.length s) : exec (.scFeed p) s = .refused .counterOverflow := by
  have hb : bodyOf (.scFeed p) s = .error (.refuse .counterOverflow) := by
    rw [bodyOf, scFeedBody, requireLive_eq, hst, bind_ok, scFeed_eq,
      if_neg (fun hf => sidecarCountersFit_iff_not_overflows.1 hf ho)]
  exact exec_of_body_refuse (i := .scFeed p) ha nofun hb

theorem scFinal_refused {s : State} (ha : Accepts .scFinal s) (hst : s.scSt = .active)
    (ht : s.scNext.toNat < s.scEnd.toNat) (ho : 2 ^ 64 ≤ s.scCount.toNat + 1) :
    exec .scFinal s = .refused .counterOverflow := by
  have hb : bodyOf .scFinal s = .error (.refuse .counterOverflow) := by
    rw [bodyOf, scFinalBody, requireLive_eq, hst, bind_ok, scFinalize_eq, if_neg (fun hf => Nat.not_lt.2 ho (hf ht))]
  exact exec_of_body_refuse (i := .scFinal) ha nofun hb

theorem encFeed_refused {p : Bytes} {s : State} (ha : Accepts .encFeed s)
    (ho : 2 ^ 64 ≤ s.consumed.toNat + p.length ∨ 2 ^ 64 ≤ s.emitted.toNat + fullLen (s.pend ++ p) ∨
      (0 < fullLen (s.pend ++ p) ∧ s.scEn = true ∧ SidecarOverflows (fullLen (s.pend ++ p)) s)) :
    exec (.encFeed p) s = .refused .counterOverflow := by
  refine exec_refused_of_not_ok (i := .encFeed p) ha rfl fun t ht => ?_
  obtain ⟨hcons, hem, hsc⟩ := encFeedBody_fits ht
  rcases ho with ho | ho | ⟨hpos, hen, ho⟩
  · exact Nat.not_lt.2 ho hcons
  · exact Nat.not_lt.2 ho hem
  · exact hsc hpos hen ho

theorem encEnd_refused {s : State} (ha : Accepts .encEnd s) :
    let n := (pkcs7Pad s.pend).length
    let w := fullWindows (s.scBuf.length + n)
    (2 ^ 64 ≤ s.emitted.toNat + n + 10 ∨
      (s.scEn = true ∧ (SidecarOverflows n s ∨
        (s.scNext.toNat + 65536 * w < s.scEnd.toNat + n ∧ 2 ^ 64 ≤ s.scCount.toNat + w + 1)))) →
    exec .encEnd s = .refused .counterOverflow := by
  intro n w ho
  refine exec_refused_of_not_ok (i := .encEnd) ha rfl fun t ht => ?_
  obtain ⟨hsc, hem, -⟩ := encEndBody_ok ht
  have hw := length_pkcs7Pad_mod s.pend
  rcases ho with ho | ⟨hen, ho | ⟨htrail, ho⟩⟩
  · rw [length_cbcEncBlocks] at hem
    omega
  · exact not_sidecarOverflows_of_fit hw (hsc hen) ho
  · exact Nat.not_lt.2 ho (encEndBody_trailing_fits ht hen htrail)

theorem decFeed_refused {p : Bytes} {s : State} (ha : Accepts .decFeed s)
    (hfit : spoolFits s.params.spoolCap (s.spool.length + (s.tail.length + p.length - 10)) = true)
    (ho : 2 ^ 64 ≤ s.consumed.toNat + p.length) : exec (.decFeed p) s = .refused .counterOverflow := by
  have hk : nonTrailerLen (s.tail ++ p) = s.tail.length + p.length - 10 := by
    rw [nonTrailerLen, List.length_append, Config.tagLen]
  have hb : bodyOf (.decFeed p) s = .error (.refuse .counterOverflow) := by
    simp only [bodyOf, decFeedBody, hk, hfit, require_true, bind_ok, macFeed_consumed, bind_toCounter_of_le ho]
  exact exec_of_body_refuse (i := .decFeed p) ha nofun hb

theorem decEnd_refused {s : State} {p : Bytes} (ha : Accepts .decEnd s) (hlen : 10 ≤ s.consumed.toNat)
    (htag : s.tail = tag10 s.macKey s.macMsg) (hpos : 0 < s.spool.length) (hw : s.spool.length % 16 = 0)
    (hp : pkcs7Unpad (cbcDecBlocks s.cipherKey s.iv s.spool).1 = some p) (ho : 2 ^ 64 ≤ p.length) :
    exec .decEnd s = .refused .counterOverflow := by
  have hct : ctEq10 (macTag s) s.tail = true := (ctEq10_tag10 _ _ _).2 htag
  have hb : bodyOf .decEnd s = .error (.refuse .counterOverflow) := by
    simp only [bodyOf, decEndBody, decide_eq_true (show Config.tagLen ≤ _ from hlen), hct,
      (wholeBlocks_iff _).2 ⟨hpos, hw⟩, unpadOrRaise_eq_ok.2 hp, require_true, bind_ok, bind_toCounter_of_le ho]
  exact exec_of_body_refuse (i := .decEnd) ha nofun hb

/-- Settles O21: one lemma per command that counts, and the list of every command's stops for the converse. -/
theorem counterOverflowIsRefused : Obligations.CounterOverflowIsRefused := by
  unfold Obligations.CounterOverflowIsRefused
  refine ⟨fun _ _ => scFeed_refused, fun _ => scFinal_refused, fun _ _ => encFeed_refused, fun s ha => ?_,
    fun _ _ => decFeed_refused, fun _ _ => decEnd_refused, fun _ _ _ => exec_refused_overflow⟩
  rw [← length_pkcs7Pad]
  exact encEnd_refused ha

end Sys2Proof.Machine
end

section
/-! PROOFS. What a command leaves when its pseudocode completes, in closed form, one case per way to complete; and with it
everything a command, a submission and a step can do. The frames and the invariants of 10_state.md are read off these. -/

namespace Sys2Proof.Machine

open Sys2Proof

/-! ### Completed commands (R12, R36) -/

/-- The command `i` completes in `s` and leaves `t`. The premises are the checks it passed and, where the counters it
writes are concerned, that they fit (R9). -/
inductive Completes (s : State) : Instr → State → Prop
  | kdf (mt : MediaType) (p : Bytes) (hlen : p.length = 32) :
      Completes s (.kdf mt p) (emitOut (derivedKeys p mt).bytes (loadKeys (derivedKeys p mt) s))
  | keysLoad (p : Bytes) (hlen : p.length = 80) : Completes s (.keysLoad p) (loadKeys (keySetOf p) s)
  | cbcEnc (f seed : Bool) (p : Bytes) (r : Bytes × Block) (hkeys : s.keysValid = true)
      (hwhole : f = true ∨ wholeBlocks p = true)
      (hr : r = cbcEncBlocks s.cipherKey (chainSeed seed s) (if f then pkcs7Pad p else p)) :
      Completes s (.cbcEnc f seed p) (emitOut r.1 { s with chain := r.2 })
  | cbcDec (f seed : Bool) (p x : Bytes) (r : Bytes × Block) (hkeys : s.keysValid = true)
      (hwhole : wholeBlocks p = true) (hr : r = cbcDecBlocks s.cipherKey (chainSeed seed s) p)
      (hx : cbcDecOutput f r.1 = .ok x) :
      Completes s (.cbcDec f seed p) (emitOut x { s with chain := r.2 })
  | macNew (hkeys : s.keysValid = true) : Completes s .macNew (macInit s)
  | macUpdate (p : Bytes) (hlive : s.macSt = .active) : Completes s (.macUpdate p) (macFeed p s)
  | macFinal (hlive : s.macSt = .active) : Completes s .macFinal (emitOut (macTag s) (macClose s))
  | macVerify (p : Bytes) (hlive : s.macSt = .active) (htag : p = macTag s) : Completes s (.macVerify p) (macClose s)
  | scNew (hkeys : s.keysValid = true) : Completes s .scNew (scInit s)
  | scFeed (p : Bytes) (hlive : s.scSt = .active) (hfit : SidecarCountersFit p s) :
      Completes s (.scFeed p) (sidecarFed p s)
  | scFinal (hlive : s.scSt = .active) (hfit : s.scNext.toNat < s.scEnd.toNat → s.scCount.toNat + 1 < 2 ^ 64) :
      Completes s .scFinal (sidecarReleased s)
  | encStart (mt : MediaType) (sc : Bool) (p : Bytes) (hlen : p.length = 32) :
      Completes s (.encStart mt sc p) { macInit (loadKeys (derivedKeys p mt) s) with
        scSt := if sc then .active else .none, scEn := sc
        pend := [], consumed := 0, emitted := 0, drained := false, finalized := false, mode := .enc }
  | encFeedPending (p : Bytes) (hshort : (s.pend ++ p).length < 16) (hcons : s.consumed.toNat + p.length < 2 ^ 64) :
      Completes s (.encFeed p) { s with
        pend := s.pend ++ p, consumed := BitVec.ofNat 64 (s.consumed.toNat + p.length) }
  | encFeedBlocks (p : Bytes) (r : Bytes × Block) (hlong : 16 ≤ (s.pend ++ p).length)
      (hr : r = cbcEncBlocks s.cipherKey s.chain ((s.pend ++ p).take (fullLen (s.pend ++ p))))
      (hfit : s.scEn = true → SidecarCountersFit r.1 s) (hemit : s.emitted.toNat + r.1.length < 2 ^ 64)
      (hcons : s.consumed.toNat + p.length < 2 ^ 64) :
      Completes s (.encFeed p) { delivered r.1 s with
        chain := r.2, pend := (s.pend ++ p).drop (fullLen (s.pend ++ p))
        consumed := BitVec.ofNat 64 (s.consumed.toNat + p.length) }
  | encEnd (y : Bytes) (hy : y = (cbcEncBlocks s.cipherKey s.chain (pkcs7Pad s.pend)).1)
      (hfit : s.scEn = true → SidecarCountersFit y s) (hemit : s.emitted.toNat + y.length + 10 < 2 ^ 64) :
      Completes s .encEnd (pipelineClosed { released (delivered y s) with
        out := s.out ++ y ++ tag10 s.macKey (s.macMsg ++ y)
        emitted := BitVec.ofNat 64 (s.emitted.toNat + y.length + 10) })
  | decStart (mt : MediaType) (p : Bytes) (hlen : p.length = 32) :
      Completes s (.decStart mt p) { macInit (loadKeys (derivedKeys p mt) s) with
        scEn := false, tail := [], spool := [], consumed := 0, emitted := 0
        drained := false, finalized := false, mode := .dec }
  | decFeed (p c : Bytes) (hc : c = (s.tail ++ p).take ((s.tail ++ p).length - 10))
      (hspool : spoolFits s.params.spoolCap (s.spool ++ c).length = true)
      (hcons : s.consumed.toNat + p.length < 2 ^ 64) :
      Completes s (.decFeed p) { macFeed c s with
        spool := s.spool ++ c, tail := (s.tail ++ p).drop ((s.tail ++ p).length - 10)
        consumed := BitVec.ofNat 64 (s.consumed.toNat + p.length) }
  | decEnd (p : Bytes) (hlen : 10 ≤ s.consumed.toNat) (htag : s.tail = macTag s)
      (hwhole : wholeBlocks s.spool = true) (hp : pkcs7Unpad (cbcDecBlocks s.cipherKey s.iv s.spool).1 = some p)
      (hfit : p.length < 2 ^ 64) :
      Completes s .decEnd (pipelineClosed { s with out := s.out ++ p, emitted := BitVec.ofNat 64 p.length })

theorem requireLive_eq_ok {st : Lifecycle} {u : Unit} : requireLive st = .ok u ↔ st = .active := by
  cases st <;> simp [requireLive_eq]

theorem ctEq10_macTag {s : State} {b : Bytes} : ctEq10 (macTag s) b = true ↔ b = macTag s := ctEq10_tag10 _ _ _

theorem encFeed_completes {p : Bytes} {s t : State} (h : encFeedBody p s = .ok t) : Completes s (.encFeed p) t := by
  simp only [encFeedBody, bind_eq_ok, pure_eq_ok, Except.ok.injEq] at h
  obtain ⟨u, hu, c, hc, rfl⟩ := h
  obtain ⟨hcons, rfl⟩ := toCounter_eq_ok.1 hc
  by_cases hb : (s.pend ++ p).length < 16
  · rw [encFullBlocks_of_short s hb, Except.ok.injEq] at hu
    subst hu
    have h0 : fullLen (s.pend ++ p) = 0 := by rw [fullLen_eq]; omega
    rw [h0, List.drop_zero]
    exact .encFeedPending p hb hcons
  · rw [encFullBlocks_of_long s (Nat.le_of_not_lt hb)] at hu
    obtain ⟨hfit, hemit, rfl⟩ := encBlocks_ok hu
    exact .encFeedBlocks p _ (Nat.le_of_not_lt hb) rfl hfit hemit hcons

theorem decFeed_completes {p : Bytes} {s t : State} (h : decFeedBody p s = .ok t) : Completes s (.decFeed p) t := by
  simp only [decFeedBody, bind_eq_ok, pure_eq_ok, Except.ok.injEq, require_eq_ok, slice_zero, nonTrailerLen,
    Config.tagLen] at h
  obtain ⟨-, hspool, c, hc, rfl⟩ := h
  obtain ⟨hcons, rfl⟩ := toCounter_eq_ok.1 hc
  refine .decFeed p _ rfl ?_ hcons
  rwa [List.length_append, List.length_take, Nat.min_eq_left (Nat.sub_le _ _)]

theorem decEnd_completes {s t : State} (h : decEndBody s = .ok t) : Completes s .decEnd t := by
  simp only [decEndBody, bind_eq_ok, pure_eq_ok, Except.ok.injEq, require_eq_ok, ctEq10_macTag,
    unpadOrRaise_eq_ok, Config.tagLen] at h
  obtain ⟨-, hlen, -, htag, -, hwhole, p, hp, c, hc, rfl⟩ := h
  obtain ⟨hfit, rfl⟩ := toCounter_eq_ok.1 hc
  exact .decEnd p (of_decide_eq_true hlen) htag hwhole hp hfit

/-- Every command's pseudocode that completes leaves its closed form. -/
theorem completes_of_bodyOf {i : Instr} {s t : State} (hi : i ≠ .abort) (h : bodyOf i s = .ok t) : Completes s i t := by
  cases i with
  | kdf mt p =>
    simp only [bodyOf, kdfBody, bind_eq_ok, pure_eq_ok, Except.ok.injEq] at h
    obtain ⟨k, hk, rfl⟩ := h
    obtain ⟨hlen, rfl⟩ := derive_eq_ok hk
    exact .kdf mt p hlen
  | keysLoad p =>
    simp only [bodyOf, keysLoadBody, bind_eq_ok, pure_eq_ok, Except.ok.injEq, require_eq_ok] at h
    obtain ⟨-, hlen, rfl⟩ := h
    exact .keysLoad p (by simpa [Config.keySetLen] using hlen)
  | cbcEnc f seed p =>
    simp only [bodyOf, cbcEncBody, bind_eq_ok, pure_eq_ok, Except.ok.injEq, require_eq_ok, Bool.or_eq_true] at h
    obtain ⟨-, hkeys, -, hwhole, rfl⟩ := h
    exact .cbcEnc f seed p _ hkeys hwhole rfl
  | cbcDec f seed p =>
    simp only [bodyOf, cbcDecBody, bind_eq_ok, pure_eq_ok, Except.ok.injEq, require_eq_ok] at h
    obtain ⟨-, hkeys, -, hwhole, x, hx, rfl⟩ := h
    exact .cbcDec f seed p x _ hkeys hwhole rfl hx
  | macNew =>
    simp only [bodyOf, macNewBody, bind_eq_ok, pure_eq_ok, Except.ok.injEq, require_eq_ok] at h
    obtain ⟨-, hkeys, rfl⟩ := h
    exact .macNew hkeys
  | macUpdate p =>
    simp only [bodyOf, macUpdateBody, bind_eq_ok, pure_eq_ok, Except.ok.injEq, requireLive_eq_ok] at h
    obtain ⟨-, hlive, rfl⟩ := h
    exact .macUpdate p hlive
  | macFinal =>
    simp only [bodyOf, macFinalBody, bind_eq_ok, pure_eq_ok, Except.ok.injEq, requireLive_eq_ok] at h
    obtain ⟨-, hlive, rfl⟩ := h
    exact .macFinal hlive
  | macVerify p =>
    simp only [bodyOf, macVerifyBody, bind_eq_ok, pure_eq_ok, Except.ok.injEq, requireLive_eq_ok, require_eq_ok,
      ctEq10_macTag] at h
    obtain ⟨-, hlive, -, -, -, htag, rfl⟩ := h
    exact .macVerify p hlive htag
  | scNew =>
    simp only [bodyOf, scNewBody, bind_eq_ok, pure_eq_ok, Except.ok.injEq, require_eq_ok] at h
    obtain ⟨-, hkeys, rfl⟩ := h
    exact .scNew hkeys
  | scFeed p =>
    simp only [bodyOf, scFeedBody, bind_eq_ok, requireLive_eq_ok, scFeed_eq] at h
    obtain ⟨-, hlive, h⟩ := h
    split at h
    · next hfit => cases h; exact .scFeed p hlive hfit
    · cases h
  | scFinal =>
    simp only [bodyOf, scFinalBody, bind_eq_ok, requireLive_eq_ok, scFinalize_eq] at h
    obtain ⟨-, hlive, h⟩ := h
    split at h
    · next hfit => cases h; exact .scFinal hlive hfit
    · cases h
  | encStart mt sc p =>
    simp only [bodyOf, encStartBody, bind_eq_ok, pure_eq_ok, Except.ok.injEq] at h
    obtain ⟨k, hk, rfl⟩ := h
    obtain ⟨hlen, rfl⟩ := derive_eq_ok hk
    cases sc with
    | true => exact .encStart mt true p hlen
    | false => exact .encStart mt false p hlen
  | encFeed p => exact encFeed_completes h
  | encEnd =>
    obtain ⟨hfit, hemit, rfl⟩ := encEndBody_ok h
    exact .encEnd _ rfl hfit hemit
  | decStart mt p =>
    simp only [bodyOf, decStartBody, bind_eq_ok, pure_eq_ok, Except.ok.injEq] at h
    obtain ⟨k, hk, rfl⟩ := h
    obtain ⟨hlen, rfl⟩ := derive_eq_ok hk
    exact .decStart mt p hlen
  | decFeed p => exact decFeed_completes h
  | decEnd => exact decEnd_completes h
  | abort => exact absurd rfl hi

/-! ### Everything a command, a submission and a step can do (R87, R230) -/

/-- The four ways a command ends in a next state: `ABORT` resets; the error state absorbs every other command; an error
changes `ERR` and `ERR_OPC` only; or the command completes. -/
theorem exec_outcomes {i : Instr} {s t : State} (h : exec i s = .next t) :
    (i = .abort ∧ t = resetState s) ∨ (i ≠ .abort ∧ s.err ≠ none ∧ t = s) ∨
    (s.err = none ∧ ∃ e, t = raiseError i.opcode.code e s) ∨ (Accepts i.opcode s ∧ Completes s i t) := by
  rcases exec_cases h with h | h | ⟨he, -, -, rfl⟩ | ⟨he, -, rfl⟩ | ⟨hi, ha, hb | ⟨e, -, rfl⟩⟩
  · exact .inl h
  · exact .inr (.inl h)
  · exact .inr (.inr (.inl ⟨he, _, rfl⟩))
  · exact .inr (.inr (.inl ⟨he, _, rfl⟩))
  · exact .inr (.inr (.inr ⟨ha, completes_of_bodyOf hi hb⟩))
  · exact .inr (.inr (.inl ⟨ha.1, e, rfl⟩))

/-- A command other than `ABORT` that starts and ends without an error has completed. -/
theorem completes_of_no_err {i : Instr} {s t : State} (h : exec i s = .next t) (hi : i ≠ .abort) (hs : s.err = none)
    (ht : t.err = none) : Completes s i t := by
  rcases exec_outcomes h with ⟨rfl, -⟩ | ⟨-, he, -⟩ | ⟨-, e, rfl⟩ | ⟨-, hc⟩
  · exact absurd rfl hi
  · exact absurd hs he
  · exact absurd ht (by simp)
  · exact hc

/-- To show something of the state after a command other than `ABORT`, show it of the state before, with and without an
error raised in it, and of the state a completed command leaves. -/
theorem exec_post {P : State → Prop} {i : Instr} {s t : State} (h : exec i s = .next t) (hi : i ≠ .abort) (hs : P s)
    (hraise : ∀ e, P (raiseError i.opcode.code e s)) (hok : Completes s i t → P t) : P t := by
  rcases exec_outcomes h with ⟨rfl, -⟩ | ⟨-, -, rfl⟩ | ⟨-, e, rfl⟩ | ⟨-, hc⟩
  · exact absurd rfl hi
  · exact hs
  · exact hraise e
  · exact hok hc

theorem ne_abort_of_opcode_notMem {i : Instr} {ops : List Opcode} (h : i.opcode ∉ ops) (ha : .abort ∈ ops) :
    i ≠ .abort := by
  rintro rfl
  exact h ha

/-- A rejected word raises `IllegalCommand`, or has no effect in the error state (R84, R242). -/
theorem rejectWord_cases {w : Word} {s t : State} (h : rejectWord w s = .next t) :
    (s.err ≠ none ∧ t = s) ∨ (s.err = none ∧ t = raiseError (opcField w) .illegalCommand s) := by
  unfold rejectWord at h
  cases he : s.err with
  | none => rw [he] at h; cases h; exact .inr ⟨rfl, rfl⟩
  | some e => rw [he] at h; cases h; exact .inl ⟨nofun, rfl⟩

/-- A submission that answers a next state runs a command or rejects its word (R87). -/
theorem submit_cases {w : Word} {p : Bytes} {s t : State} (h : submit w p s = .next t) :
    (∃ i, decode w p = .ok i ∧ exec i s = .next t) ∨ rejectWord w s = .next t := by
  unfold submit at h
  split at h
  · cases hd : decode w p with
    | ok i => rw [hd] at h; exact .inl ⟨i, rfl, h⟩
    | error e => rw [hd] at h; exact .inr h
  · cases h

/-- A step is idle, or makes the oldest pending transaction (R15). -/
theorem step_cases {s t : State} (h : step s = .next t) :
    (s.pending = [] ∧ t = s) ∨
    (∃ tr rest, s.pending = tr :: rest ∧ transact tr { s with pending := rest } = .next t) := by
  unfold step at h
  cases hp : s.pending with
  | nil => rw [hp] at h; cases h; exact .inl ⟨rfl, rfl⟩
  | cons tr rest => rw [hp] at h; exact .inr ⟨tr, rest, rfl, h⟩

theorem step_of_pending {s : State} {tr : Transaction} {rest : List Transaction} (h : s.pending = tr :: rest) :
    step s = transact tr { s with pending := rest } := by rw [step, h]

/-- What holds of a state with any error, streams and host side, of the state after a reset, and of what a completed
command leaves, is kept by every step. -/
theorem step_keeps {P : State → Prop}
    (hhost : ∀ (s : State) err opc out sco pending replies, P s →
      P { s with err := err, errOpc := opc, out := out, sco := sco, pending := pending, replies := replies })
    (hreset : ∀ s, P s → P (resetState s))
    (hcomplete : ∀ i s t, P s → Accepts i.opcode s → Completes s i t → P t)
    {s t : State} (hs : P s) (h : step s = .next t) : P t := by
  have hraise : ∀ opc e s, P s → P (raiseError opc e s) := fun opc e s => hhost s (some e) opc s.out s.sco s.pending s.replies
  rcases step_cases h with ⟨-, rfl⟩ | ⟨tr, rest, -, h⟩
  · exact hs
  replace hs : P { s with pending := rest } := hhost s s.err s.errOpc s.out s.sco rest s.replies hs
  cases tr with
  | submit w p =>
    rcases submit_cases h with ⟨i, -, h⟩ | h
    · rcases exec_outcomes h with ⟨-, rfl⟩ | ⟨-, -, rfl⟩ | ⟨-, e, rfl⟩ | ⟨ha, hc⟩
      · exact hreset _ hs
      · exact hs
      · exact hraise _ e _ hs
      · exact hcomplete i _ t hs ha hc
    · rcases rejectWord_cases h with ⟨-, rfl⟩ | ⟨-, rfl⟩
      · exact hs
      · exact hraise _ _ _ hs
  | readReg off => cases h; exact hhost _ _ _ _ _ _ _ hs
  | writeReg off v => cases h; exact hs
  | drainOut n => cases h; exact hhost _ _ _ _ _ _ _ hs
  | drainSco n => cases h; exact hhost _ _ _ _ _ _ _ hs
  | reset => cases h; exact hreset _ hs

end Sys2Proof.Machine
end

section
/-! PROOFS. The invariants of 10_state.md R37: one lemma per operation of the commands that keeps them, then every completed
command, then every step. -/

namespace Sys2Proof.Machine

open Sys2Proof

/-! ### Appending and delivering -/

/-- Bytes appended to a seeded accumulator leave the seed in front (R152). -/
theorem take_append_of_seed {m x : Bytes} {iv : Block} (h : m.take 16 = bytesOf iv) :
    (m ++ x).take 16 = bytesOf iv := by
  have hl : (m.take 16).length = 16 := by rw [h, length_bytesOf]
  rw [List.length_take] at hl
  rw [List.take_append_of_le_length (by omega), h]

/-- A delivery with a sidecar, and one without (R191). -/
theorem delivered_of_enabled {y : Bytes} {s : State} (hen : s.scEn = true) :
    delivered y s = { sidecarFed y s with
      out := s.out ++ y, macMsg := s.macMsg ++ y, emitted := BitVec.ofNat 64 (s.emitted.toNat + y.length) } := by
  simp only [delivered, if_pos hen]
  rfl

theorem delivered_of_disabled {y : Bytes} {s : State} (hen : s.scEn = false) :
    delivered y s = { s with
      out := s.out ++ y, macMsg := s.macMsg ++ y, emitted := BitVec.ofNat 64 (s.emitted.toNat + y.length) } := by
  simp only [delivered, hen, Bool.false_eq_true, if_false]

/-! ### States that meet the invariants whatever came before -/

/-- Reset leaves everything the invariants speak of empty (R270, R271). -/
theorem resetWith_inv (ps : Params) (ts : List Transaction) (rs : List Reply) : (State.resetWith ps ts rs).Inv := by
  constructor <;> simp [State.resetWith, zeros]
  cases ps.spoolCap <;> simp [spoolFits]

/-- The end of a pipeline too (R194). -/
theorem pipelineClosed_inv (s : State) : (pipelineClosed s).Inv := by
  constructor <;> simp
  cases s.params.spoolCap <;> simp [spoolFits]

namespace State.Inv

variable {s : State}

/-! ### Operations that keep the invariants in every mode -/

/-- No invariant speaks of the error, the streams or the host's side. -/
theorem host_fields (h : s.Inv) (err : Option EngineError) (opc : Byte) (out sco : Bytes) (ts : List Transaction)
    (rs : List Reply) :
    State.Inv { s with err := err, errOpc := opc, out := out, sco := sco, pending := ts, replies := rs } := { h with }

theorem emitOut (h : s.Inv) (bs : Bytes) : (emitOut bs s).Inv := { h with }

/-- A chain value is written only while there are keys (R26). -/
theorem chain (h : s.Inv) (hkeys : s.keysValid = true) (c : Block) : State.Inv { s with chain := c } :=
  { h with unkeyed_zero := fun hk => absurd (hkeys.symm.trans hk) nofun }

/-- `sc_feed` keeps `SC_END` at the end of what is buffered, and one tag per window counted (R171). -/
theorem sidecarFed (h : s.Inv) {c : Bytes} (hlive : s.scSt = .active) (hfit : SidecarCountersFit c s) :
    (sidecarFed c s).Inv := by
  obtain ⟨hend, hcount, hnext⟩ := hfit
  obtain ⟨haligned, hspan, -, htags⟩ := h.sc_active hlive
  have hf := fullWindows_fit (s.scBuf ++ c).length
  have hrest := length_rest_lt (s.scBuf ++ c).length
  refine { h with sc_active := fun _ => ?_, sc_final := fun hf => ?_ }
  · simp only [sidecarFed_scNext, sidecarFed_scEnd, sidecarFed_scCount, sidecarFed_scBuf, sidecarFed_scTags,
      BitVec.toNat_ofNat, Nat.mod_eq_of_lt hend, Nat.mod_eq_of_lt hcount, Nat.mod_eq_of_lt hnext, List.length_drop,
      List.length_append, length_windowTags] at hf hrest ⊢
    omega
  · rw [sidecarFed_scSt, hlive] at hf
    cases hf

/-! ### Operations of an idle engine -/

section Idle
variable (h : s.Inv) (hidle : s.mode = .idle)
include h hidle

theorem scEn_of_idle : s.scEn = false := by
  cases hen : s.scEn with
  | false => rfl
  | true => exact absurd ((h.sc_enabled hen).1.symm.trans hidle) nofun

theorem pend_of_idle : s.pend = [] := h.pend_only_enc (by simp [hidle])

theorem tail_spool_of_idle : s.tail = [] ∧ s.spool = [] := h.spool_only_dec (by simp [hidle])

/-- `load_keys` clears every context of the keys before (R103). -/
theorem loadKeys (k : KeySet) : (loadKeys k s).Inv :=
  { h with
    enc_mac := by simp [hidle]
    dec_mac := by simp [hidle]
    mac_seeded := by simp
    sc_active := by simp
    sc_final := by simp
    sc_enabled := by simp [h.scEn_of_idle hidle]
    busy_keyed := by simp
    unkeyed_zero := by simp }

/-- `mac_init` seeds the accumulator with `IV` (R152). -/
theorem macInit (hkeys : s.keysValid = true) : (macInit s).Inv :=
  { h with
    enc_mac := by simp [hidle]
    dec_mac := by simp [hidle]
    mac_seeded := fun _ => ⟨List.take_of_length_le (by simp), hkeys⟩ }

theorem macFeed (hlive : s.macSt = .active) (bs : Bytes) : (macFeed bs s).Inv :=
  have hseed := h.mac_seeded (by simp [hlive])
  { h with
    dec_mac := by simp [hidle]
    mac_seeded := fun _ => ⟨take_append_of_seed hseed.1, hseed.2⟩ }

theorem macClose (hlive : s.macSt = .active) : (macClose s).Inv :=
  { h with
    enc_mac := by simp [hidle]
    dec_mac := by simp [hidle]
    mac_seeded := fun _ => h.mac_seeded (by simp [hlive]) }

theorem scInit : (scInit s).Inv :=
  { h with
    sc_active := by simp
    sc_final := by simp
    sc_enabled := by simp [h.scEn_of_idle hidle] }

theorem sidecarReleased : (sidecarReleased s).Inv :=
  { h with
    sc_active := by simp
    sc_final := by simp
    sc_enabled := by simp [h.scEn_of_idle hidle] }

/-- `ENC_START` turns freshly loaded keys into an empty encrypt pipeline (R190). -/
theorem encStarted (hkeys : s.keysValid = true) (hmac : s.macSt = .active)
    (hsc : s.scBuf = [] ∧ s.scNext = 0 ∧ s.scEnd = 0 ∧ s.scCount = 0 ∧ s.scTags = []) (sc : Bool) :
    State.Inv { s with
      scSt := if sc then .active else .none, scEn := sc
      pend := [], consumed := 0, emitted := 0, drained := false, finalized := false, mode := .enc } := by
  obtain ⟨hbuf, hnext, hend, hcount, htags⟩ := hsc
  exact { h with
    pend_short := by simp
    pend_only_enc := by simp
    spool_only_dec := fun _ => h.tail_spool_of_idle hidle
    enc_count := by simp
    dec_count := by simp
    dec_tail := by simp
    dec_silent := by simp
    enc_mac := fun _ => hmac
    dec_mac := by simp
    sc_active := by simp [hbuf, hnext, hend, hcount, htags]
    sc_final := fun _ => htags
    sc_enabled := by simp
    busy_keyed := fun _ => hkeys }

/-- `DEC_START` turns freshly loaded keys into an empty decrypt pipeline (R210). -/
theorem decStarted (hkeys : s.keysValid = true) (hseed : s.macMsg = bytesOf s.iv) (hmac : s.macSt = .active) :
    State.Inv { s with
      scEn := false, tail := [], spool := [], consumed := 0, emitted := 0
      drained := false, finalized := false, mode := .dec } := by
  obtain ⟨htail, hspool⟩ := h.tail_spool_of_idle hidle
  exact { h with
    pend_only_enc := fun _ => h.pend_of_idle hidle
    tail_short := by simp
    spool_only_dec := by simp
    spool_fits := by simpa only [hspool] using h.spool_fits
    enc_count := by simp
    dec_count := by simp
    dec_tail := by simp
    dec_silent := by simp
    enc_mac := by simp
    dec_mac := by simp [hmac, hseed]
    sc_enabled := by simp
    busy_keyed := fun _ => hkeys }

end Idle

/-! ### Operations of a running pipeline -/

/-- What `ENC_FEED` does but for the sidecar: it delivers, and keeps less than a block (R191, R192). -/
theorem encAdvanced (h : s.Inv) (henc : s.mode = .enc) {msg pend : Bytes} {consumed emitted : Counter}
    (hmsg : msg.take 16 = bytesOf s.iv) (hpend : pend.length ≤ 15)
    (hcount : consumed.toNat = emitted.toNat + pend.length) (out : Bytes) (chain : Block) :
    State.Inv { s with
      out := out, macMsg := msg, chain := chain, pend := pend, consumed := consumed, emitted := emitted } :=
  have hkeys := h.busy_keyed (by simp [henc])
  { h with
    pend_short := hpend
    pend_only_enc := fun hne => absurd henc hne
    enc_count := fun _ => hcount
    dec_count := by simp [henc]
    dec_tail := by simp [henc]
    dec_silent := by simp [henc]
    dec_mac := by simp [henc]
    mac_seeded := fun _ => ⟨hmsg, hkeys⟩
    unkeyed_zero := fun hk => absurd (hkeys.symm.trans hk) nofun }

theorem seed_of_enc (h : s.Inv) (henc : s.mode = .enc) : s.macMsg.take 16 = bytesOf s.iv :=
  (h.mac_seeded (by simp [h.enc_mac henc])).1

/-- `ENC_FEED` with no full block (R192). -/
theorem encFeedPending (h : s.Inv) (henc : s.mode = .enc) {p : Bytes} (hshort : (s.pend ++ p).length < 16)
    (hcons : s.consumed.toNat + p.length < 2 ^ 64) :
    State.Inv { s with pend := s.pend ++ p, consumed := BitVec.ofNat 64 (s.consumed.toNat + p.length) } := by
  have hcount := h.enc_count henc
  refine h.encAdvanced henc (h.seed_of_enc henc) (Nat.le_of_lt_succ hshort) ?_ s.out s.chain
  simp only [BitVec.toNat_ofNat, Nat.mod_eq_of_lt hcons, List.length_append]
  omega

/-- `ENC_FEED` with full blocks: what is delivered and what is kept add up to what came (R192). -/
theorem encFeedBlocks (h : s.Inv) (henc : s.mode = .enc) {p y : Bytes} (hy : y.length = fullLen (s.pend ++ p))
    (hfit : s.scEn = true → SidecarCountersFit y s) (hemit : s.emitted.toNat + y.length < 2 ^ 64)
    (hcons : s.consumed.toNat + p.length < 2 ^ 64) (c : Block) :
    State.Inv { delivered y s with
      chain := c, pend := (s.pend ++ p).drop (fullLen (s.pend ++ p))
      consumed := BitVec.ofNat 64 (s.consumed.toNat + p.length) } := by
  have hcount := h.enc_count henc
  have hfull := fullLen_eq (s.pend ++ p)
  have hl : (s.pend ++ p).length = s.pend.length + p.length := List.length_append
  have hpend : ((s.pend ++ p).drop (fullLen (s.pend ++ p))).length ≤ 15 := by rw [List.length_drop]; omega
  have hsum : (BitVec.ofNat 64 (s.consumed.toNat + p.length)).toNat =
      (BitVec.ofNat 64 (s.emitted.toNat + y.length)).toNat +
        ((s.pend ++ p).drop (fullLen (s.pend ++ p))).length := by
    rw [BitVec.toNat_ofNat, BitVec.toNat_ofNat, Nat.mod_eq_of_lt hcons, Nat.mod_eq_of_lt hemit, List.length_drop]
    omega
  have hseed := take_append_of_seed (x := y) (h.seed_of_enc henc)
  cases hen : s.scEn with
  | true =>
    rw [delivered_of_enabled hen]
    exact (h.sidecarFed (h.sc_enabled hen).2 (hfit hen)).encAdvanced henc hseed hpend hsum _ c
  | false =>
    rw [delivered_of_disabled hen]
    exact h.encAdvanced henc hseed hpend hsum _ c

/-- `DEC_FEED` moves all but the last 10 bytes to the spool and the accumulator (R211). -/
theorem decFeed (h : s.Inv) (hdec : s.mode = .dec) {p c : Bytes}
    (hc : c = (s.tail ++ p).take ((s.tail ++ p).length - 10))
    (hspool : spoolFits s.params.spoolCap (s.spool ++ c).length = true) (hcons : s.consumed.toNat + p.length < 2 ^ 64) :
    State.Inv { Machine.macFeed c s with
      spool := s.spool ++ c, tail := (s.tail ++ p).drop ((s.tail ++ p).length - 10)
      consumed := BitVec.ofNat 64 (s.consumed.toNat + p.length) } := by
  have hcount := h.dec_count hdec
  have htail := h.dec_tail hdec
  obtain ⟨hmac, hmsg⟩ := h.dec_mac hdec
  obtain ⟨hseed, hkeys⟩ := h.mac_seeded (by simp [hmac])
  have hclen : c.length = s.tail.length + p.length - 10 := by
    rw [hc, List.length_take, List.length_append, Nat.min_eq_left (Nat.sub_le _ _)]
  have htlen : ((s.tail ++ p).drop ((s.tail ++ p).length - 10)).length = min (s.tail.length + p.length) 10 := by
    rw [List.length_drop, List.length_append]; omega
  refine { h with
    tail_short := by rw [htlen]; exact Nat.min_le_right _ _
    spool_only_dec := fun hne => absurd hdec hne
    spool_fits := hspool
    enc_count := by simp [hdec]
    dec_count := fun _ => ?_
    dec_tail := fun _ => ?_
    dec_mac := fun _ => ⟨hmac, by simp [hmsg]⟩
    mac_seeded := fun _ => ⟨take_append_of_seed hseed, hkeys⟩ }
  · dsimp only
    rw [BitVec.toNat_ofNat, Nat.mod_eq_of_lt hcons, htlen, List.length_append, hclen]
    omega
  · dsimp only
    rw [BitVec.toNat_ofNat, Nat.mod_eq_of_lt hcons, htlen]
    omega

end State.Inv

/-! ### Commands and steps -/

/-- Every completed command keeps the invariants. -/
theorem Completes.inv {i : Instr} {s t : State} (hc : Completes s i t) (ha : Accepts i.opcode s) (h : s.Inv) : t.Inv := by
  obtain ⟨-, -, hmode⟩ := ha
  cases hc with
  | kdf mt p => exact (h.loadKeys (eq_of_beq hmode) _).emitOut _
  | keysLoad p => exact h.loadKeys (eq_of_beq hmode) _
  | cbcEnc f seed p r hkeys => exact (h.chain hkeys r.2).emitOut _
  | cbcDec f seed p x r hkeys => exact (h.chain hkeys r.2).emitOut _
  | macNew hkeys => exact h.macInit (eq_of_beq hmode) hkeys
  | macUpdate p hlive => exact h.macFeed (eq_of_beq hmode) hlive p
  | macFinal hlive => exact (h.macClose (eq_of_beq hmode) hlive).emitOut _
  | macVerify p hlive => exact h.macClose (eq_of_beq hmode) hlive
  | scNew => exact h.scInit (eq_of_beq hmode)
  | scFeed p hlive hfit => exact h.sidecarFed hlive hfit
  | scFinal => exact h.sidecarReleased (eq_of_beq hmode)
  | encStart mt sc p =>
    have hidle : s.mode = .idle := eq_of_beq hmode
    have hkeyed := (h.loadKeys hidle (derivedKeys p mt)).macInit hidle rfl
    exact hkeyed.encStarted hidle rfl rfl ⟨rfl, rfl, rfl, rfl, rfl⟩ sc
  | encFeedPending p hshort hcons => exact h.encFeedPending (eq_of_beq hmode) hshort hcons
  | encFeedBlocks p r hlong hr hfit hemit hcons =>
    have hy : r.1.length = fullLen (s.pend ++ p) := by
      rw [hr, length_cbcEncBlocks, length_take_fullLen, fullLen_eq]; omega
    exact h.encFeedBlocks (eq_of_beq hmode) hy hfit hemit hcons r.2
  | encEnd => exact pipelineClosed_inv _
  | decStart mt p =>
    have hidle : s.mode = .idle := eq_of_beq hmode
    have hkeyed := (h.loadKeys hidle (derivedKeys p mt)).macInit hidle rfl
    exact hkeyed.decStarted hidle rfl rfl rfl
  | decFeed p c hc hspool hcons => exact h.decFeed (eq_of_beq hmode) hc hspool hcons
  | decEnd => exact pipelineClosed_inv _

/-- Settles O57: the invariants do not speak of the host's side, reset meets them, and a completed command keeps them. -/
theorem stepKeepsTheInvariants : Obligations.StepKeepsTheInvariants := by
  unfold Obligations.StepKeepsTheInvariants
  intro s t hs h
  exact step_keeps (fun _ _ _ _ _ _ _ hs => hs.host_fields _ _ _ _ _ _) (fun _ _ => resetWith_inv _ _ _)
    (fun _ _ _ hs ha hc => hc.inv ha hs) hs h

/-- Settles O56. -/
theorem resetMeetsTheInvariants : Obligations.ResetMeetsTheInvariants := resetWith_inv _ _ _

end Sys2Proof.Machine
end

section
/-! PROOFS. The register map (10_state.md R38 to R42) and the host's transactions other than commands (R41, R232, R234). -/

namespace Sys2Proof.Machine

open Sys2Proof

/-! ### `STATUS` (R39) -/

/-- `STATUS` with the widths of its fields standing in its type (R39). -/
def statusFields (s : State) : BitVec (3 + 5 + 8 + 4 + 1 + 1 + 1 + 1 + 2 + 2 + 1 + 1 + 2) :=
  0#3 ++ BitVec.ofNat 5 (bufLen s) ++ s.errOpc ++ errCode s.err ++ 0#1 ++ BitVec.ofBool s.params.unitAccess ++
    BitVec.ofBool s.finalized ++ BitVec.ofBool s.drained ++ s.scSt.code ++ s.macSt.code ++ BitVec.ofBool s.scEn ++
    BitVec.ofBool s.keysValid ++ s.mode.code

theorem extract_status (s : State) (start len : Nat) :
    (status s).extractLsb' start len = (statusFields s).extractLsb' start len := rfl

theorem getLsbD_status (s : State) (i : Nat) : (status s).getLsbD i = (statusFields s).getLsbD i := rfl

/-- The fields of more than one bit. -/
theorem status_wide_fields (s : State) :
    (status s).extractLsb' 0 2 = s.mode.code ∧ (status s).extractLsb' 4 2 = s.macSt.code ∧
    (status s).extractLsb' 6 2 = s.scSt.code ∧ (status s).extractLsb' 12 4 = errCode s.err ∧
    (status s).extractLsb' 16 8 = s.errOpc ∧ (status s).extractLsb' 24 5 = BitVec.ofNat 5 (bufLen s) ∧
    (status s).extractLsb' 29 3 = 0#3 := by
  simp only [extract_status, statusFields, BitVec.extractLsb'_append_eq_of_le, BitVec.extractLsb'_append_eq_of_add_le,
    Nat.reduceLeDiff, Nat.reduceSub, BitVec.extractLsb'_eq_self, and_self]

/-- The fields of one bit. -/
theorem status_flags (s : State) :
    (status s).getLsbD 2 = s.keysValid ∧ (status s).getLsbD 3 = s.scEn ∧ (status s).getLsbD 8 = s.drained ∧
    (status s).getLsbD 9 = s.finalized ∧ (status s).getLsbD 10 = s.params.unitAccess ∧
    (status s).getLsbD 11 = false := by
  simp only [getLsbD_status, statusFields, BitVec.getLsbD_append, Nat.reduceLT, Nat.reduceSub, reduceIte]
  simp

/-- `STATUS` after reset (R271). -/
theorem status_resetWith (ps : Params) (ts : List Transaction) (rs : List Reply) :
    status (State.resetWith ps ts rs) = if ps.unitAccess then 0x00000400 else 0 := by
  have hbits : ∀ b : Bool, (0#3 ++ 0#5 ++ 0#8 ++ 0#4 ++ 0#1 ++ BitVec.ofBool b ++ BitVec.ofBool false ++
      BitVec.ofBool false ++ 0#2 ++ 0#2 ++ BitVec.ofBool false ++ BitVec.ofBool false ++ 0#2 : Word) =
      if b then 0x00000400 else 0 := by decide
  exact hbits ps.unitAccess

/-- Settles O11: the fields are read off the concatenation, and each code is the one the map gives it. -/
theorem statusFieldsAreWhereTheMapSays : Obligations.StatusFieldsAreWhereTheMapSays := by
  unfold Obligations.StatusFieldsAreWhereTheMapSays
  refine ⟨fun s => ?_, status_resetWith, fun _ _ _ => rfl⟩
  obtain ⟨hmode, hmac, hsc, herr, hopc, hbuf, hrest⟩ := status_wide_fields s
  obtain ⟨hkeys, hen, hdrained, hfinal, hunit, hzero⟩ := status_flags s
  refine ⟨hmode.trans ?_, hkeys, hen, hmac.trans ?_, hsc.trans ?_, hdrained, hfinal, hunit, hzero, herr.trans ?_, hopc,
    hbuf.trans ?_, hrest⟩
  · cases s.mode <;> rfl
  · cases s.macSt <;> rfl
  · cases s.scSt <;> rfl
  · rcases s.err with _ | e
    · rfl
    · cases e <;> rfl
  · unfold bufLen
    cases s.mode <;> rfl

/-! ### The other registers (R38, R40 to R42) -/

/-- The two halves of a counter, the upper over the lower, are the counter (R40). -/
@[simp] theorem hiHalf_append_loHalf (c : Counter) : hiHalf c ++ loHalf c = c := by
  exact (BitVec.extractLsb'_append_extractLsb'_eq_extractLsb' rfl).trans BitVec.extractLsb'_eq_self

theorem toNat_lenCounter (bs : Bytes) : (lenCounter bs).toNat = bs.length % 2 ^ 64 := BitVec.toNat_ofNat _ _

/-- A length register reads the length modulo 2^64 (R38). -/
theorem toNat_lenCounter_halves (bs : Bytes) :
    (hiHalf (lenCounter bs) ++ loHalf (lenCounter bs)).toNat = bs.length % 2 ^ 64 := by
  rw [hiHalf_append_loHalf]
  exact toNat_lenCounter bs

/-- Every offset that is unaligned or past the map reads 0 (R41). -/
theorem readReg_of_not_register {off : Nat} (s : State) (h : off % 4 ≠ 0 ∨ 0x44 < off) : readReg off s = 0 := by
  unfold readReg
  split
  rotate_right
  · rfl
  all_goals omega

/-- Settles O12. -/
theorem registerMapReads : Obligations.RegisterMapReads := by
  unfold Obligations.RegisterMapReads
  intro s
  exact ⟨rfl, hiHalf_append_loHalf _, hiHalf_append_loHalf _, hiHalf_append_loHalf _, hiHalf_append_loHalf _,
    hiHalf_append_loHalf _, toNat_lenCounter_halves _, toNat_lenCounter_halves _, toNat_lenCounter_halves _, rfl,
    fun _ => readReg_of_not_register s⟩

theorem SameRegisterView.bufLen_eq {s t : State} (h : SameRegisterView s t) : bufLen s = bufLen t := by
  unfold bufLen
  rw [h.mode]
  cases t.mode with
  | idle => rfl
  | enc => exact h.pend
  | dec => exact h.tail

theorem SameRegisterView.status_eq {s t : State} (h : SameRegisterView s t) : status s = status t := by
  simp only [status, h.bufLen_eq, h.errOpc, h.err, h.unitAccess, h.finalized, h.drained, h.scSt, h.macSt, h.scEn,
    h.keysValid, h.mode]

/-- Settles O13: `STATUS` is made of flags and lengths, and every other register of a counter or a length. -/
theorem registersExposeNoSecret : Obligations.RegistersExposeNoSecret := by
  unfold Obligations.RegistersExposeNoSecret
  intro s t h off
  simp only [readReg, h.status_eq, h.consumed, h.emitted, h.scNext, h.scEnd, h.scCount, lenCounter, h.spool, h.out, h.sco]

/-! ### Host transactions other than commands (R41, R232, R234) -/

/-- The registers do not show what the host has still to ask. -/
theorem readReg_pending (off : Nat) (s : State) (ts : List Transaction) :
    readReg off { s with pending := ts } = readReg off s := rfl

/-- Settles O8: a step makes the oldest pending transaction, and these four always complete. -/
theorem hostTransactionsComplete : Obligations.HostTransactionsComplete := by
  unfold Obligations.HostTransactionsComplete
  intro s rest
  refine ⟨fun off h => ?_, fun off v h => step_of_pending h, fun n h => step_of_pending h, fun n h => step_of_pending h⟩
  rw [step_of_pending h, transact, readReg_pending]
  rfl

end Sys2Proof.Machine
end

section
/-! PROOFS. Frames: which commands write the keys, the chain value, the streams, the mode and the cursor (10_state.md R22,
R24, R26, R34 to R36), and what no transaction changes (R43) or clears (R23). Each is read off the closed forms of
`Completes`; a command that does not complete changes `ERR` and `ERR_OPC` at most. -/

namespace Sys2Proof.Machine

open Sys2Proof

variable {i : Instr} {s t : State}

/-! ### Keys and chain (R24, R26) -/

theorem Completes.keys (hc : Completes s i t)
    (hop : i.opcode ∉ [.kdf, .keysLoad, .encStart, .decStart, .encEnd, .decEnd, .abort]) :
    t.iv = s.iv ∧ t.cipherKey = s.cipherKey ∧ t.macKey = s.macKey ∧ t.keysValid = s.keysValid := by
  cases hc with
  | kdf | keysLoad | encStart | decStart | encEnd | decEnd => simp [Instr.opcode] at hop
  | _ => exact ⟨rfl, rfl, rfl, rfl⟩

/-- Settles O25. -/
theorem onlyKeyCommandsWriteKeys : Obligations.OnlyKeyCommandsWriteKeys := by
  unfold Obligations.OnlyKeyCommandsWriteKeys
  intro i s t h hop
  have hi : i ≠ .abort := ne_abort_of_opcode_notMem hop (by decide)
  exact exec_post (P := fun t => t.iv = s.iv ∧ t.cipherKey = s.cipherKey ∧ t.macKey = s.macKey ∧ t.keysValid = s.keysValid)
    h hi ⟨rfl, rfl, rfl, rfl⟩ (fun _ => ⟨rfl, rfl, rfl, rfl⟩) fun hc => hc.keys hop

theorem Completes.chain_eq (hc : Completes s i t)
    (hop : i.opcode ∉ [.cbcEnc, .cbcDec, .kdf, .keysLoad, .encStart, .encFeed, .encEnd, .decStart, .decEnd, .abort]) :
    t.chain = s.chain := by
  cases hc with
  | cbcEnc | cbcDec | kdf | keysLoad | encStart | encFeedPending | encFeedBlocks | encEnd | decStart | decEnd =>
    simp [Instr.opcode] at hop
  | _ => rfl

/-- New keys start a new chain at their `IV` (R103). -/
theorem Completes.chain_eq_iv (hc : Completes s i t) (hop : i.opcode ∈ [.kdf, .keysLoad, .encStart, .decStart]) :
    t.chain = t.iv := by
  cases hc with
  | kdf | keysLoad | encStart | decStart => rfl
  | _ => simp [Instr.opcode] at hop

/-- The end of a pipeline leaves an idle engine, a zero chain and both cursor flags set (R194). -/
theorem Completes.pipeline_end (hc : Completes s i t) (hop : i.opcode ∈ [.encEnd, .decEnd]) :
    t.mode = .idle ∧ t.chain = Vector.replicate 16 0 ∧ t.drained = true ∧ t.finalized = true := by
  cases hc with
  | encEnd | decEnd => exact ⟨rfl, rfl, rfl, rfl⟩
  | _ => simp [Instr.opcode] at hop

theorem eq_abort_of_opcode (h : i.opcode = .abort) : i = .abort := by
  cases i with
  | abort => rfl
  | _ => cases h

/-- `ABORT` resets (R231). -/
theorem eq_resetState_of_exec_abort (h : exec .abort s = .next t) : t = resetState s := by
  cases h
  rfl

/-- Settles O33. -/
theorem onlyChainingCommandsWriteChain : Obligations.OnlyChainingCommandsWriteChain := by
  unfold Obligations.OnlyChainingCommandsWriteChain
  intro i s t h
  refine ⟨fun hop => ?_, fun hs ht hop => ?_, fun hs ht hop => ?_⟩
  · have hi : i ≠ .abort := ne_abort_of_opcode_notMem hop (by decide)
    exact exec_post (P := fun t => t.chain = s.chain) h hi rfl (fun _ => rfl) fun hc => hc.chain_eq hop
  · by_cases hi : i = .abort
    · subst hi
      rw [eq_resetState_of_exec_abort h, resetState_chain]
    · have hend : i.opcode ∈ [.encEnd, .decEnd] := by
        have := mt eq_abort_of_opcode hi
        simpa [this] using hop
      exact ((completes_of_no_err h hi hs ht).pipeline_end hend).2.1
  · have hi : i ≠ .abort := by rintro rfl; exact absurd hop (by decide)
    exact (completes_of_no_err h hi hs ht).chain_eq_iv hop

/-! ### Streams (R36) -/

theorem Completes.out_grows (hc : Completes s i t) : s.out <+: t.out := by
  cases hc with
  | kdf | cbcEnc | cbcDec | macFinal | encFeedBlocks | decEnd => exact ⟨_, rfl⟩
  | encEnd => exact ⟨_, (List.append_assoc _ _ _).symm⟩
  | _ => exact ⟨[], List.append_nil _⟩

theorem Completes.sco_eq (hc : Completes s i t) (hfinal : i ≠ .scFinal) (hend : i ≠ .encEnd) : t.sco = s.sco := by
  cases hc with
  | scFinal => exact absurd rfl hfinal
  | encEnd => exact absurd rfl hend
  | _ => rfl

theorem sidecarReleased_sco_grows (s : State) : s.sco <+: (sidecarReleased s).sco := ⟨_, rfl⟩

theorem released_sco_grows (s : State) : s.sco <+: (released s).sco := by
  rw [released_sco]
  split
  · exact sidecarReleased_sco_grows s
  · exact ⟨[], List.append_nil _⟩

theorem Completes.sco_grows (hc : Completes s i t) : s.sco <+: t.sco := by
  cases hc with
  | scFinal => exact sidecarReleased_sco_grows s
  | encEnd y => exact released_sco_grows (delivered y s)
  | _ => exact ⟨[], List.append_nil _⟩

/-- Settles O42. -/
theorem streamsOnlyGrow : Obligations.StreamsOnlyGrow := by
  unfold Obligations.StreamsOnlyGrow
  intro i s t h hi
  have hkept : s.out <+: s.out ∧ s.sco <+: s.sco ∧ (s.sco ≠ s.sco → i = .scFinal ∨ i = .encEnd) :=
    ⟨⟨[], List.append_nil _⟩, ⟨[], List.append_nil _⟩, fun hne => absurd rfl hne⟩
  refine exec_post (P := fun t => s.out <+: t.out ∧ s.sco <+: t.sco ∧ (t.sco ≠ s.sco → i = .scFinal ∨ i = .encEnd))
    h hi hkept (fun _ => hkept) fun hc => ⟨hc.out_grows, hc.sco_grows, fun hne => ?_⟩
  by_contra hno
  obtain ⟨hfinal, hend⟩ := not_or.1 hno
  exact hne (hc.sco_eq hfinal hend)

/-! ### Mode and cursor (R22, R34, R35) -/

/-- A completed command raises nothing. -/
theorem Completes.err_eq (hc : Completes s i t) : t.err = s.err := by cases hc <;> rfl

theorem Completes.params_eq (hc : Completes s i t) : t.params = s.params := by cases hc <;> rfl

/-- A completed command leaves the mode, or is the start or end of a pipeline and writes its own (R22). -/
theorem Completes.mode_cases (hc : Completes s i t) :
    t.mode = s.mode ∨ (i.opcode = .encStart ∧ t.mode = .enc) ∨ (i.opcode = .decStart ∧ t.mode = .dec) ∨
      (i.opcode ∈ [.encEnd, .decEnd, .abort] ∧ t.mode = .idle) := by
  cases hc with
  | encStart => exact .inr (.inl ⟨rfl, rfl⟩)
  | decStart => exact .inr (.inr (.inl ⟨rfl, rfl⟩))
  | encEnd | decEnd => exact .inr (.inr (.inr ⟨by decide, rfl⟩))
  | _ => exact .inl rfl

/-- Settles O59. -/
theorem onlyPipelineCommandsWriteMode : Obligations.OnlyPipelineCommandsWriteMode := by
  unfold Obligations.OnlyPipelineCommandsWriteMode
  intro i s t h hne
  rcases exec_outcomes h with ⟨rfl, rfl⟩ | ⟨-, -, rfl⟩ | ⟨-, e, rfl⟩ | ⟨ha, hc⟩
  · exact .inr (.inr ⟨by decide, rfl, rfl⟩)
  · exact absurd rfl hne
  · exact absurd rfl hne
  · have herr : t.err = none := hc.err_eq.trans ha.1
    rcases hc.mode_cases with hm | ⟨hop, hm⟩ | ⟨hop, hm⟩ | ⟨hop, hm⟩
    · exact absurd hm hne
    · exact .inl ⟨hop, hm, herr⟩
    · exact .inr (.inl ⟨hop, hm, herr⟩)
    · exact .inr (.inr ⟨hop, hm, herr⟩)

theorem Completes.consumed_eq (hc : Completes s i t)
    (hop : i.opcode ∉ [.encStart, .encFeed, .decStart, .decFeed, .abort]) : t.consumed = s.consumed := by
  cases hc with
  | encStart | encFeedPending | encFeedBlocks | decStart | decFeed => simp [Instr.opcode] at hop
  | _ => rfl

theorem Completes.emitted_eq (hc : Completes s i t)
    (hop : i.opcode ∉ [.encStart, .encFeed, .encEnd, .decStart, .decEnd, .abort]) : t.emitted = s.emitted := by
  cases hc with
  | encStart | encFeedPending | encFeedBlocks | encEnd | decStart | decEnd => simp [Instr.opcode] at hop
  | _ => rfl

theorem Completes.flags_eq (hc : Completes s i t) (hop : i.opcode ∉ [.encStart, .encEnd, .decStart, .decEnd, .abort]) :
    t.drained = s.drained ∧ t.finalized = s.finalized := by
  cases hc with
  | encStart | encEnd | decStart | decEnd => simp [Instr.opcode] at hop
  | _ => exact ⟨rfl, rfl⟩

/-- The start of a pipeline clears both cursor flags (R190, R210). -/
theorem Completes.flags_of_start (hc : Completes s i t) (hop : i.opcode ∈ [.encStart, .decStart]) :
    t.drained = false ∧ t.finalized = false := by
  cases hc with
  | encStart | decStart => exact ⟨rfl, rfl⟩
  | _ => simp [Instr.opcode] at hop

/-- Settles O60. -/
theorem onlyPipelineCommandsWriteTheCursor : Obligations.OnlyPipelineCommandsWriteTheCursor := by
  unfold Obligations.OnlyPipelineCommandsWriteTheCursor
  intro i s t h
  refine ⟨fun hop => ?_, fun hop => ?_, fun hop => ?_, fun hs ht hop => ?_, fun hs ht hop => ?_⟩
  · exact exec_post (P := fun t => t.consumed = s.consumed) h (ne_abort_of_opcode_notMem hop (by decide)) rfl
      (fun _ => rfl) fun hc => hc.consumed_eq hop
  · exact exec_post (P := fun t => t.emitted = s.emitted) h (ne_abort_of_opcode_notMem hop (by decide)) rfl
      (fun _ => rfl) fun hc => hc.emitted_eq hop
  · exact exec_post (P := fun t => t.drained = s.drained ∧ t.finalized = s.finalized) h
      (ne_abort_of_opcode_notMem hop (by decide)) ⟨rfl, rfl⟩ (fun _ => ⟨rfl, rfl⟩) fun hc => hc.flags_eq hop
  · have hi : i ≠ .abort := by rintro rfl; exact absurd hop (by decide)
    exact ((completes_of_no_err h hi hs ht).pipeline_end hop).2.2
  · by_cases hi : i = .abort
    · subst hi
      rw [eq_resetState_of_exec_abort h]
      exact ⟨rfl, rfl⟩
    · have hstart : i.opcode ∈ [.encStart, .decStart] := by
        have := mt eq_abort_of_opcode hi
        simpa [this] using hop
      exact (completes_of_no_err h hi hs ht).flags_of_start hstart

/-! ### Every transaction (R23, R43) -/

/-- Settles O58. -/
theorem parametersNeverChange : Obligations.ParametersNeverChange := by
  unfold Obligations.ParametersNeverChange
  intro s t h
  exact step_keeps (P := fun t => t.params = s.params) (fun _ _ _ _ _ _ _ hs => hs) (fun _ hs => hs)
    (fun _ _ _ hs _ hc => hc.params_eq.trans hs) rfl h

/-- Only the word `0x000000FF` spells `ABORT` (R83, R242). -/
theorem word_of_decode_abort {w : Word} {p : Bytes} (h : decode w p = .ok .abort) : w = 0x000000FF := by
  obtain ⟨op, hm, -, hop⟩ := decode_eq_ok.1 h
  have hop : op = .abort := by rw [← opcode_buildInstr op w p, ← hop]; rfl
  subst hop
  rwa [show Opcode.mask .abort = BitVec.allOnes 32 from rfl, BitVec.and_allOnes] at hm

/-- In the error state a transaction keeps `ERR` and `ERR_OPC`, unless it is `ABORT` or a reset (R23, R242). -/
theorem transact_of_err {tr : Transaction} (he : s.err ≠ none) (h : transact tr s = .next t) :
    (t.err = s.err ∧ t.errOpc = s.errOpc) ∨ (t = resetState s ∧ ((∃ p, tr = .submit 0x000000FF p) ∨ tr = .reset)) := by
  cases tr with
  | submit w p =>
    rcases submit_cases h with ⟨i, hd, h⟩ | h
    · rcases exec_outcomes h with ⟨rfl, ht⟩ | ⟨-, -, rfl⟩ | ⟨hn, -⟩ | ⟨ha, -⟩
      · exact .inr ⟨ht, .inl ⟨p, by rw [word_of_decode_abort hd]⟩⟩
      · exact .inl ⟨rfl, rfl⟩
      · exact absurd hn he
      · exact absurd ha.1 he
    · rcases rejectWord_cases h with ⟨-, rfl⟩ | ⟨hn, -⟩
      · exact .inl ⟨rfl, rfl⟩
      · exact absurd hn he
  | readReg off => cases h; exact .inl ⟨rfl, rfl⟩
  | writeReg off v => cases h; exact .inl ⟨rfl, rfl⟩
  | drainOut n => cases h; exact .inl ⟨rfl, rfl⟩
  | drainSco n => cases h; exact .inl ⟨rfl, rfl⟩
  | reset => cases h; exact .inr ⟨rfl, .inr rfl⟩

/-- Settles O15: a step is idle or makes one transaction, and only `ABORT` and reset leave the error state. -/
theorem theFirstErrorLatches : Obligations.TheFirstErrorLatches := by
  unfold Obligations.TheFirstErrorLatches
  intro s t e he h
  rcases step_cases h with ⟨-, rfl⟩ | ⟨tr, rest, hp, h⟩
  · exact .inl ⟨he, rfl⟩
  have hne : ({ s with pending := rest } : State).err ≠ none := by simp [he]
  rcases transact_of_err hne h with ⟨herr, hopc⟩ | ⟨rfl, ⟨p, rfl⟩ | rfl⟩
  · exact .inl ⟨herr.trans he, hopc⟩
  · exact .inr ⟨rfl, .inl ⟨p, hp⟩⟩
  · exact .inr ⟨rfl, .inr hp⟩

end Sys2Proof.Machine
end

section
/-! PROOFS. The encoding (30_encoding.md R81 to R85, R93). A command word is the concatenation of its fields; a word that
matches an opcode's row has the opcode's byte and zeros wherever the row leaves no operand. Both round trips follow. -/

namespace Sys2Proof

/-! ### The fields of an assembled word (R81) -/

section
variable (sc s f : Bool) (mt : BitVec 2) (op : Opcode)

/-- The fields stand in the word's type, so that the laws of `++` apply to them. -/
theorem extract_commandWord (start len : Nat) :
    (commandWord sc s f mt op).extractLsb' start len =
      (0#19 ++ BitVec.ofBool sc ++ BitVec.ofBool s ++ BitVec.ofBool f ++ mt ++ op.code).extractLsb' start len := rfl

theorem getLsbD_commandWord (i : Nat) :
    (commandWord sc s f mt op).getLsbD i =
      (0#19 ++ BitVec.ofBool sc ++ BitVec.ofBool s ++ BitVec.ofBool f ++ mt ++ op.code).getLsbD i := rfl

@[simp] theorem mtField_commandWord : mtField (commandWord sc s f mt op) = mt := by
  simp only [mtField, extract_commandWord, BitVec.extractLsb'_append_eq_of_le, BitVec.extractLsb'_append_eq_of_add_le,
    Nat.reduceLeDiff, Nat.reduceSub, BitVec.extractLsb'_eq_self]

@[simp] theorem fField_commandWord : fField (commandWord sc s f mt op) = f := by
  simp only [fField, getLsbD_commandWord, BitVec.getLsbD_append, Nat.reduceLT, Nat.reduceSub, reduceIte]
  simp

@[simp] theorem sField_commandWord : sField (commandWord sc s f mt op) = s := by
  simp only [sField, getLsbD_commandWord, BitVec.getLsbD_append, Nat.reduceLT, Nat.reduceSub, reduceIte]
  simp

@[simp] theorem scField_commandWord : scField (commandWord sc s f mt op) = sc := by
  simp only [scField, getLsbD_commandWord, BitVec.getLsbD_append, Nat.reduceLT, Nat.reduceSub, reduceIte]
  simp

end

theorem ofBool_getLsbD {n : Nat} (w : BitVec n) (k : Nat) : BitVec.ofBool (w.getLsbD k) = w.extractLsb' k 1 := by
  ext i hi
  obtain rfl : i = 0 := by omega
  simp

/-- A word with no reserved bit set is assembled from its own fields. -/
theorem commandWord_fields {w : Word} {op : Opcode} (hres : w.extractLsb' 13 19 = 0#19) (hopc : opcField w = op.code) :
    commandWord (scField w) (sField w) (fField w) (mtField w) op = w := by
  rw [commandWord, ← hres, ← hopc]
  simp only [scField, sField, fField, mtField, opcField, ofBool_getLsbD,
    BitVec.extractLsb'_append_extractLsb'_eq_extractLsb']
  exact BitVec.extractLsb'_eq_self

/-! ### What a match says of the fields (R83) -/

section
variable {w : Word} {op : Opcode}

/-- Where the mask covers a field, a matching word has the field of the match. -/
theorem extract_of_match (h : w &&& op.mask = op.matchBits) {start len : Nat}
    (hm : op.mask.extractLsb' start len = BitVec.allOnes len) :
    w.extractLsb' start len = op.matchBits.extractLsb' start len := by
  rw [← h, BitVec.extractLsb'_and, hm, BitVec.and_allOnes]

theorem getLsbD_of_match (h : w &&& op.mask = op.matchBits) {k : Nat} (hm : op.mask.getLsbD k = true) :
    w.getLsbD k = op.matchBits.getLsbD k := by
  rw [← h, BitVec.getLsbD_and, hm, Bool.and_true]

/-- No row has an operand in the reserved bits. -/
theorem reserved_of_match (h : w &&& op.mask = op.matchBits) : w.extractLsb' 13 19 = 0#19 := by
  rw [extract_of_match h (by cases op <;> rfl)]
  cases op <;> rfl

theorem mtField_of_match (h : w &&& op.mask = op.matchBits) (hm : mtField op.mask = 3) : mtField w = 0 :=
  (extract_of_match h hm).trans (by cases op <;> rfl)

theorem fField_of_match (h : w &&& op.mask = op.matchBits) (hm : fField op.mask = true) : fField w = false :=
  (getLsbD_of_match h hm).trans (by cases op <;> rfl)

theorem sField_of_match (h : w &&& op.mask = op.matchBits) (hm : sField op.mask = true) : sField w = false :=
  (getLsbD_of_match h hm).trans (by cases op <;> rfl)

theorem scField_of_match (h : w &&& op.mask = op.matchBits) (hm : scField op.mask = true) : scField w = false :=
  (getLsbD_of_match h hm).trans (by cases op <;> rfl)

end

/-! ### Decoding an encoding (R81, R83) -/

/-- The word of every command spells its opcode. -/
theorem word_spells (i : Instr) : Laws.WordMatches.Statement i := by
  cases i with
  | kdf mt p => exact Laws.WordMatches.kdf mt p
  | cbcEnc f seed p => exact Laws.WordMatches.cbcEnc f seed p
  | cbcDec f seed p => exact Laws.WordMatches.cbcDec f seed p
  | encStart mt sc p => exact Laws.WordMatches.encStart mt sc p
  | decStart mt p => exact Laws.WordMatches.decStart mt p
  | _ => exact Laws.WordMatches.spells_plain _

/-- A command of class `none` carries no payload (R85). -/
theorem payload_of_class_none {i : Instr} (h : i.opcode.payloadClass = .none) : i.payload = [] := by
  cases i with
  | macNew | macFinal | scNew | scFinal | encEnd | decEnd => rfl
  | _ => cases h

/-- The decoder reads every operand back from the field it was put in. -/
theorem buildInstr_word (i : Instr) : buildInstr i.opcode i.word i.payload = i := by
  cases i with
  | kdf | cbcEnc | cbcDec | encStart | decStart => simp [buildInstr, Instr.opcode, Instr.word, Instr.payload]
  | _ => rfl

/-- Settles O1: the word of a command matches its row, and its fields are the operands. -/
theorem decodeInvertsEncode : Obligations.DecodeInvertsEncode := by
  unfold Obligations.DecodeInvertsEncode
  intro i
  obtain ⟨hmatch, -⟩ := word_spells i
  exact (decode_of_match hmatch payload_of_class_none).trans (congrArg _ (buildInstr_word i))

/-! ### Encoding what was decoded (R84, R85) -/

/-- The command built from a matching word has that word: its operands are fields of the word, and every field that is no
operand of the opcode is 0. -/
theorem word_buildInstr {w : Word} {op : Opcode} (h : w &&& op.mask = op.matchBits) (p : Bytes) :
    (buildInstr op w p).word = w := by
  have hw := commandWord_fields (reserved_of_match h) (opcField_of_match h)
  cases op with
  | kdf | decStart =>
    rw [scField_of_match h rfl, sField_of_match h rfl, fField_of_match h rfl] at hw
    simpa [buildInstr, Instr.word] using hw
  | encStart =>
    rw [sField_of_match h rfl, fField_of_match h rfl] at hw
    simpa [buildInstr, Instr.word] using hw
  | cbcEnc | cbcDec =>
    rw [scField_of_match h rfl, mtField_of_match h rfl] at hw
    exact hw
  | _ =>
    rw [scField_of_match h rfl, sField_of_match h rfl, fField_of_match h rfl, mtField_of_match h rfl] at hw
    exact hw

/-- The payload goes into the command, but for `ABORT`, and for the class that allows none. -/
theorem payload_buildInstr {op : Opcode} {p : Bytes} (w : Word) (hp : op.payloadClass = .none → p = [])
    (ha : op ≠ .abort) : (buildInstr op w p).payload = p := by
  cases op with
  | macNew | macFinal | scNew | scFinal | encEnd | decEnd => exact (hp rfl).symm
  | abort => exact absurd rfl ha
  | _ => rfl

/-- Settles O2: a decoded word matches a row, and the command built from the row has that word and payload. -/
theorem decodedWordIsTheEncoding : Obligations.DecodedWordIsTheEncoding := by
  unfold Obligations.DecodedWordIsTheEncoding
  intro w p i h
  obtain ⟨op, hmatch, hp, rfl⟩ := decode_eq_ok.1 h
  refine ⟨word_buildInstr hmatch p, fun ha => payload_buildInstr w hp ?_⟩
  rintro rfl
  exact ha rfl

/-! ### Which words decode (R83, R93) -/

/-- Settles O3: `decode_eq_ok`, with the opcode of the decoded command named. -/
theorem maskAndMatchDecideDecoding : Obligations.MaskAndMatchDecideDecoding := by
  unfold Obligations.MaskAndMatchDecideDecoding
  intro w p op
  constructor
  · rintro ⟨i, hi, rfl⟩
    obtain ⟨op, hmatch, hp, rfl⟩ := decode_eq_ok.1 hi
    rw [opcode_buildInstr]
    exact ⟨hmatch, hp⟩
  · rintro ⟨hmatch, hp⟩
    exact ⟨buildInstr op w p, decode_of_match hmatch hp, opcode_buildInstr op w p⟩

/-- A word with a defined opcode byte that misses the opcode's row has a bit set that the row does not allow (R84). -/
theorem decode_of_not_match {w : Word} {op : Opcode} (p : Bytes) (hopc : opcField w = op.code)
    (h : w &&& op.mask ≠ op.matchBits) : decode w p = .error .disallowedBits := by
  rw [decode, hopc, opcodeOf_code]
  exact if_pos h

/-- Settles O4: the legal examples are encodings, so they decode by `decodeInvertsEncode`; the other two have the bytes of
`CBC_ENC` and `ENC_START` and a bit that the rows do not allow. -/
theorem encodingExamplesDecode : Obligations.EncodingExamplesDecode := by
  unfold Obligations.EncodingExamplesDecode
  have hdecode := decodeInvertsEncode
  unfold Obligations.DecodeInvertsEncode at hdecode
  exact ⟨hdecode (.encStart .audio true _), hdecode (.encStart .image false _),
    hdecode (.decStart .document [1]), hdecode (.kdf .video [1]), hdecode (.cbcEnc true true []),
    hdecode (.cbcDec false true [1]), hdecode .abort, hdecode (.cbcEnc true false []),
    decode_of_not_match (op := .cbcEnc) [] rfl (by decide), decode_of_not_match (op := .encStart) [] rfl (by decide)⟩

end Sys2Proof
end

section
/-! PROOFS. Submission (30_encoding.md R86 to R89, 46_host_and_control.md R230): what a step makes of a word that decodes and
of one that does not, and the engine's checks before a command's own. -/

namespace Sys2Proof.Machine

open Sys2Proof

/-! ### A submitted word (R84, R87, R242) -/

theorem submit_of_decode {w : Word} {p : Bytes} {i : Instr} (s : State) (hp : payloadWf p = true)
    (hd : decode w p = .ok i) : submit w p s = exec i s := by
  rw [submit, if_pos hp, hd]

theorem submit_of_decode_error {w : Word} {p : Bytes} {e : DecodeError} (s : State) (hp : payloadWf p = true)
    (hd : decode w p = .error e) : submit w p s = rejectWord w s := by
  rw [submit, if_pos hp, hd]

theorem rejectWord_of_no_err {s : State} (w : Word) (h : s.err = none) :
    rejectWord w s = .next (raiseError (opcField w) .illegalCommand s) := by
  rw [rejectWord, h]
  rfl

theorem rejectWord_of_err {s : State} (w : Word) (h : s.err ≠ none) : rejectWord w s = .next s :=
  if_pos (Option.isSome_iff_ne_none.2 h)

/-- Settles O5. -/
theorem stepRunsTheDecodedCommand : Obligations.StepRunsTheDecodedCommand := by
  unfold Obligations.StepRunsTheDecodedCommand
  intro s w p rest i hpending hp hd
  calc step s = submit w p { s with pending := rest } := step_of_pending hpending
    _ = exec i { s with pending := rest } := submit_of_decode _ hp hd

/-- Settles O6. -/
theorem undecodableWordsAreIllegal : Obligations.UndecodableWordsAreIllegal := by
  unfold Obligations.UndecodableWordsAreIllegal
  intro s w p rest e hpending hp hd
  have hstep : step s = rejectWord w { s with pending := rest } :=
    (step_of_pending hpending).trans (submit_of_decode_error _ hp hd)
  exact ⟨fun he => hstep.trans (rejectWord_of_no_err w he), fun he => hstep.trans (rejectWord_of_err w he)⟩

/-! ### Unit access and mode (R86, R88) -/

/-- Without unit access a unit command is illegal, in every mode. -/
theorem exec_of_no_access {i : Instr} {s : State} (he : s.err = none) (hu : i.opcode.isUnit = true)
    (ha : s.params.unitAccess = false) : exec i s = .next (raiseError i.opcode.code .illegalCommand s) := by
  have hi : i ≠ .abort := by rintro rfl; cases hu
  rw [exec_eq_runCommand s hi, runCommand_of_no_access he hu ha]

/-- A command that the engine has, in a mode that does not allow it. -/
theorem exec_of_mode {i : Instr} {s : State} (he : s.err = none)
    (hu : i.opcode.isUnit = true → s.params.unitAccess = true) (hm : modeLegal i.opcode s.mode = false) :
    exec i s = .next (raiseError i.opcode.code .sequenceError s) := by
  have hi : i ≠ .abort := by rintro rfl; cases hm
  rw [exec_eq_runCommand s hi, runCommand_of_mode he hu hm]

theorem isUnit_iff (op : Opcode) : op.isUnit = true ↔
    op ∈ [.keysLoad, .cbcEnc, .cbcDec, .macNew, .macUpdate, .macFinal, .macVerify, .scNew, .scFeed, .scFinal] := by
  cases op <;> decide

theorem modeLegal_idle_iff (op : Opcode) :
    modeLegal op .idle = true ↔ op ≠ .encFeed ∧ op ≠ .encEnd ∧ op ≠ .decFeed ∧ op ≠ .decEnd := by
  cases op <;> decide

theorem modeLegal_enc_iff (op : Opcode) : modeLegal op .enc = true ↔ op = .encFeed ∨ op = .encEnd ∨ op = .abort := by
  cases op <;> decide

theorem modeLegal_dec_iff (op : Opcode) : modeLegal op .dec = true ↔ op = .decFeed ∨ op = .decEnd ∨ op = .abort := by
  cases op <;> decide

/-- Settles O17: the wrapper's two checks, and the columns of the opcode map they read. -/
theorem accessThenModeAreCheckedFirst : Obligations.AccessThenModeAreCheckedFirst := by
  unfold Obligations.AccessThenModeAreCheckedFirst
  exact ⟨fun _ _ he => ⟨exec_of_no_access he, exec_of_mode he⟩, isUnit_iff, modeLegal_idle_iff, modeLegal_enc_iff,
    modeLegal_dec_iff⟩

end Sys2Proof.Machine
end

section
/-! PROOFS. The key schedule (40_keyschedule.md R100 to R105): the expansion written out, what the commands that take key
material do with it, and their one error (R108). -/

namespace Sys2Proof.Machine

open Sys2Proof

/-! ### The expansion (R100) -/

/-- Taking more bytes than a fixed-size byte string has takes all of it. -/
theorem take_bytesOf_append {n : Nat} (v : Octets n) (l : Bytes) (k : Nat) :
    (bytesOf v ++ l).take (n + k) = bytesOf v ++ l.take k := by
  simpa using List.take_length_add_append (l₁ := bytesOf v) (l₂ := l) k

/-- Settles O22: the loop runs four times, and 112 is three hashes of 32 bytes and 16 bytes of the fourth. -/
theorem hkdfExpandFormula : Obligations.HkdfExpandFormula := by
  unfold Obligations.HkdfExpandFormula
  intro prk info t1 t2 t3 t4
  calc hkdfExpand prk info 112
      = (t1 ++ (t2 ++ (t3 ++ (t4 ++ [])))).take (32 + (32 + (32 + 16))) := rfl
    _ = t1 ++ (t2 ++ (t3 ++ (t4 ++ []).take 16)) := by
      rw [take_bytesOf_append, take_bytesOf_append, take_bytesOf_append]
    _ = t1 ++ t2 ++ t3 ++ t4.take 16 := by simp only [List.append_nil, List.append_assoc]

/-! ### Key material of the right length (R101, R103) -/

/-- `KDF`, `ENC_START` and `DEC_START` begin with `derive`, which passes on a secret of 32 bytes. -/
theorem bind_derive_of_length {α : Type} {p : Bytes} (mt : MediaType) (h : p.length = 32) (f : KeySet → Result α) :
    derive p mt >>= f = f (derivedKeys p mt) := by
  rw [derive_of_length mt h, bind_ok]

theorem keysLoadBody_of_length {p : Bytes} (s : State) (h : p.length = 80) :
    keysLoadBody p s = .ok (loadKeys (keySetOf p) s) := by
  have hlen : (p.length == Config.keySetLen) = true := beq_iff_eq.2 h
  rw [keysLoadBody, hlen, require_true]
  rfl

/-- The key registers after a load hold the key set. -/
theorem keyBytes_loadKeys (k : KeySet) (s : State) : keyBytes (loadKeys k s) = k.bytes := rfl

/-- A load writes the keys and drops every context, and nothing else (R103). -/
theorem loadKeys_eq_rekeyed (k : KeySet) (s : State) : loadKeys k s = rekeyed s (loadKeys k s) := rfl

/-- A payload of exactly 80 bytes is the key set it spells (R105). -/
theorem keySetOf_bytes_of_length {p : Bytes} (h : p.length = 80) : (keySetOf p).bytes = p := by
  rw [keySetOf_bytes h.ge, List.take_of_length_le h.le]

theorem exec_kdf {mt : MediaType} {p : Bytes} {s : State} (ha : Accepts .kdf s) (h : p.length = 32) :
    exec (.kdf mt p) s = .next (emitOut (derivedKeys p mt).bytes (loadKeys (derivedKeys p mt) s)) :=
  exec_of_body_ok (i := .kdf mt p) ha nofun (bind_derive_of_length mt h _)

theorem exec_keysLoad {p : Bytes} {s : State} (ha : Accepts .keysLoad s) (h : p.length = 80) :
    exec (.keysLoad p) s = .next (loadKeys (keySetOf p) s) :=
  exec_of_body_ok (i := .keysLoad p) ha nofun (keysLoadBody_of_length s h)

/-- Settles O23: the key set loaded and emitted is the derived one, the first 80 bytes of the expansion. -/
theorem kdfLoadsAndEmitsTheKeys : Obligations.KdfLoadsAndEmitsTheKeys := by
  unfold Obligations.KdfLoadsAndEmitsTheKeys
  intro mt p s ha hp
  rw [← derivedKeys_bytes]
  exact ⟨_, exec_kdf ha hp, keyBytes_loadKeys _ s, congrArg (emitOut _) (loadKeys_eq_rekeyed _ s)⟩

/-- Settles O24: the key set loaded is the one the payload spells. -/
theorem keysLoadInstallsThePayload : Obligations.KeysLoadInstallsThePayload := by
  unfold Obligations.KeysLoadInstallsThePayload
  intro p s ha hp
  exact ⟨_, exec_keysLoad ha hp, (keyBytes_loadKeys _ s).trans (keySetOf_bytes_of_length hp), loadKeys_eq_rekeyed _ s⟩

/-! ### Key material of the wrong length (R108) -/

theorem bind_derive_of_length_ne {α : Type} {p : Bytes} (mt : MediaType) (h : p.length ≠ 32) (f : KeySet → Result α) :
    derive p mt >>= f = .error (.raise .invalidKeyLength) := by
  rw [derive_of_length_ne mt h, bind_error]

theorem keysLoadBody_of_length_ne {p : Bytes} (s : State) (h : p.length ≠ 80) :
    keysLoadBody p s = .error (.raise .invalidKeyLength) := by
  have hlen : (p.length == Config.keySetLen) = false := beq_eq_false_iff_ne.2 h
  rw [keysLoadBody, hlen, require_false]
  rfl

/-- Settles O18: the length is the first thing each of the four commands checks, and an error changes `ERR` and `ERR_OPC`
only. -/
theorem wrongKeyLengthIsRaised : Obligations.WrongKeyLengthIsRaised := by
  unfold Obligations.WrongKeyLengthIsRaised
  intro mt sc p s
  refine ⟨fun ha hp => ?kdf, fun ha hp => ?keysLoad, fun ha hp => ?encStart, fun ha hp => ?decStart⟩
  case kdf => exact exec_of_body_raise (i := .kdf mt p) ha nofun (bind_derive_of_length_ne mt hp _)
  case keysLoad => exact exec_of_body_raise (i := .keysLoad p) ha nofun (keysLoadBody_of_length_ne s hp)
  case encStart => exact exec_of_body_raise (i := .encStart mt sc p) ha nofun (bind_derive_of_length_ne mt hp _)
  case decStart => exact exec_of_body_raise (i := .decStart mt p) ha nofun (bind_derive_of_length_ne mt hp _)

end Sys2Proof.Machine
end

section
/-! PROOFS. The CBC unit (41_cbc.md R120 to R128): the recurrences of both directions, padding, what `CBC_ENC` and `CBC_DEC`
do when they complete and their errors, and the two laws that relate calls, splitting (R127) and inversion (R128). -/

namespace Sys2Proof.Machine

open Sys2Proof

/-! ### The recurrences (R120 to R122) -/

/-- Each ciphertext block encrypts its plaintext block XOR the ciphertext block before it, which has the same index once the
chain state stands in front (R121). -/
theorem getElem?_cbcEncList {k : Key} {c x d : Block} {xs : List Block} {i : Nat} (hx : xs[i]? = some x)
    (hd : (c :: (cbcEncList k c xs).1)[i]? = some d) :
    (cbcEncList k c xs).1[i]? = some (Config.aesEnc k (xorBlock x d)) := by
  induction xs generalizing c i with
  | nil => cases hx
  | cons z xs ih =>
    cases i with
    | zero => cases hx; cases hd; rfl
    | succ i => exact ih hx hd

/-- Each plaintext block is its ciphertext block decrypted, XOR the ciphertext block before it (R122). -/
theorem getElem?_cbcDecList {k : Key} {c y d : Block} {ys : List Block} {i : Nat} (hy : ys[i]? = some y)
    (hd : (c :: ys)[i]? = some d) : (cbcDecList k c ys).1[i]? = some (xorBlock (Config.aesDec k y) d) := by
  induction ys generalizing c i with
  | nil => cases hy
  | cons z ys ih =>
    cases i with
    | zero => cases hy; cases hd; rfl
    | succ i => exact ih hy hd

/-- Encryption hands on the last ciphertext block it made (R121). -/
theorem cbcEncList_snd (k : Key) (c : Block) (xs : List Block) :
    (cbcEncList k c xs).2 = (cbcEncList k c xs).1.getLastD c := by
  induction xs generalizing c with
  | nil => rfl
  | cons x xs ih => rw [cbcEncList, List.getLastD_cons]; exact ih _

/-- Decryption hands on the last ciphertext block it read (R122). -/
theorem cbcDecList_snd (k : Key) (c : Block) (ys : List Block) : (cbcDecList k c ys).2 = ys.getLastD c := by
  induction ys generalizing c with
  | nil => rfl
  | cons y ys ih => rw [cbcDecList, List.getLastD_cons]; exact ih _

@[simp] theorem blocks_cbcEncBlocks (k : Key) (c : Block) (x : Bytes) :
    blocks (cbcEncBlocks k c x).1 = (cbcEncList k c (blocks x)).1 := blocks_unblocks _

@[simp] theorem blocks_cbcDecBlocks (k : Key) (c : Block) (y : Bytes) :
    blocks (cbcDecBlocks k c y).1 = (cbcDecList k c (blocks y)).1 := blocks_unblocks _

theorem getElem?_blocks (s : Bytes) {i : Nat} (h : i < s.length / 16) : (blocks s)[i]? = some (block s i) := by
  rw [List.getElem?_eq_getElem (by simpa using h), getElem_blocks]

/-- The block before block `i`, with the chain state in front of the first. -/
theorem getElem?_cons_blocks (c : Block) (s : Bytes) {i : Nat} (h : i < s.length / 16) :
    (c :: blocks s)[i]? = some (if i = 0 then c else block s (i - 1)) := by
  cases i with
  | zero => rfl
  | succ i => exact getElem?_blocks s (Nat.lt_of_succ_lt h)

/-- The last block of whole blocks, or `c` where there is none. -/
theorem getLastD_blocks (c : Block) {s : Bytes} (h : s.length % 16 = 0) :
    (blocks s).getLastD c = if s = [] then c else block s (s.length / 16 - 1) := by
  by_cases hs : s = []
  · subst hs; rfl
  · have hpos := List.length_pos_iff.2 hs
    rw [if_neg hs, List.getLastD_eq_getLast?, List.getLast?_eq_getElem?, length_blocks, getElem?_blocks s (by omega)]
    rfl

/-- Settles O26: block by block the recurrences of the list loops, whose chain state is the last ciphertext block. -/
theorem cbcRecurrences : Obligations.CbcRecurrences := by
  unfold Obligations.CbcRecurrences
  refine ⟨fun k c x hx => ?encrypt, fun k c y hy => ?decrypt⟩
  case encrypt =>
    have hlen : (cbcEncBlocks k c x).1.length = x.length := by rw [length_cbcEncBlocks]; omega
    refine ⟨hlen, fun i hi => ?_, ?_⟩
    · have hi' : i < (cbcEncBlocks k c x).1.length / 16 := by rwa [hlen]
      have hprev := getElem?_cons_blocks c _ hi'
      have hcur := getElem?_blocks _ hi'
      rw [blocks_cbcEncBlocks] at hprev hcur
      exact Option.some.inj (hcur.symm.trans (getElem?_cbcEncList (getElem?_blocks x hi) hprev))
    · have hnil : (cbcEncBlocks k c x).1 = [] ↔ x = [] := by
        rw [← List.length_eq_zero_iff, hlen, List.length_eq_zero_iff]
      have hlast := getLastD_blocks c (s := (cbcEncBlocks k c x).1) (by rwa [hlen])
      rw [blocks_cbcEncBlocks, ← cbcEncList_snd] at hlast
      simp only [hnil, hlen] at hlast
      exact hlast
  case decrypt =>
    refine ⟨by rw [length_cbcDecBlocks]; omega, fun i hi => ?_, ?_⟩
    · have hcur := getElem?_blocks (cbcDecBlocks k c y).1 (i := i) (by rw [length_cbcDecBlocks]; omega)
      rw [blocks_cbcDecBlocks] at hcur
      exact Option.some.inj (hcur.symm.trans
        (getElem?_cbcDecList (getElem?_blocks y hi) (getElem?_cons_blocks c y hi)))
    · exact (cbcDecList_snd k c (blocks y)).trans (getLastD_blocks c hy)

/-! ### Padding (R123, R124) -/

/-- Whole blocks that unpad to `y` are `y` padded: the bytes stripped have the number and the value that padding adds. -/
theorem pkcs7Pad_of_pkcs7Unpad {x y : Bytes} (hx : x.length % 16 = 0) (h : pkcs7Unpad x = some y) : pkcs7Pad y = x := by
  obtain ⟨p, hp1, hp16, rfl, hdrop⟩ := pkcs7Unpad_eq_some h
  have hne : x.length ≠ 0 := by
    intro h0
    obtain rfl := List.length_eq_zero_iff.1 h0
    cases h
  have hpad : padLen (x.take (x.length - p)) = p := by
    rw [padLen, Config.blockLen, List.length_take]; omega
  have hstripped : x.length - (x.length - p) = p := by omega
  rw [hstripped] at hdrop
  rw [pkcs7Pad, hpad, ← hdrop, List.take_append_drop]

/-- Settles O27. -/
theorem unpadAcceptsExactlyPaddedStrings : Obligations.UnpadAcceptsExactlyPaddedStrings := by
  unfold Obligations.UnpadAcceptsExactlyPaddedStrings
  intro x y hx
  exact ⟨pkcs7Pad_of_pkcs7Unpad hx, fun h => h ▸ pkcs7Unpad_pkcs7Pad y⟩

/-! ### Calls that complete (R125, R126) -/

/-- `s` after a call of the CBC unit that made the bytes `r.1` and left the chain state `r.2`. -/
def chained (r : Bytes × Block) (s : State) : State := { s with chain := r.2, out := s.out ++ r.1 }

/-- What `CBC_ENC` encrypts: its payload, padded in a final call (R125). -/
def cbcEncInput (f : Bool) (p : Bytes) : Bytes := if f then pkcs7Pad p else p

theorem bind_require_of_true {α : Type} {c : Bool} (h : c = true) (e : EngineError) (k : Unit → Result α) :
    require c e >>= k = k () := by
  rw [h, require_true, bind_ok]

theorem bind_require_of_false {α : Type} {c : Bool} (h : c = false) (e : EngineError) (k : Unit → Result α) :
    require c e >>= k = .error (.raise e) := by
  rw [h, require_false, bind_error]

theorem cbcEncBody_of_keys {f : Bool} {p : Bytes} {s : State} (seed : Bool) (hkeys : s.keysValid = true)
    (hwhole : f = false → wholeBlocks p = true) :
    cbcEncBody f seed p s = .ok (chained (cbcEncBlocks s.cipherKey (chainSeed seed s) (cbcEncInput f p)) s) := by
  have hf : (f || wholeBlocks p) = true := by
    cases f with
    | false => exact hwhole rfl
    | true => rfl
  rw [cbcEncBody, bind_require_of_true hkeys, bind_require_of_true hf]
  rfl

/-- With keys and on whole blocks only unpadding can stop `CBC_DEC`. -/
theorem cbcDecBody_of_keys {p : Bytes} {s : State} (f seed : Bool) (hkeys : s.keysValid = true)
    (hwhole : wholeBlocks p = true) :
    cbcDecBody f seed p s = cbcDecOutput f (cbcDecBlocks s.cipherKey (chainSeed seed s) p).1 >>= fun x =>
      .ok (chained (x, (cbcDecBlocks s.cipherKey (chainSeed seed s) p).2) s) := by
  rw [cbcDecBody, bind_require_of_true hkeys, bind_require_of_true hwhole]
  rfl

theorem exec_cbcEnc {f seed : Bool} {p : Bytes} {s : State} {r : Bytes × Block} (ha : Accepts .cbcEnc s)
    (hkeys : s.keysValid = true) (hwhole : f = false → wholeBlocks p = true)
    (hr : cbcEncBlocks s.cipherKey (chainSeed seed s) (cbcEncInput f p) = r) :
    exec (.cbcEnc f seed p) s = .next (chained r s) := by
  subst hr
  exact exec_of_body_ok (i := .cbcEnc f seed p) ha nofun (cbcEncBody_of_keys seed hkeys hwhole)

theorem exec_cbcDec {f seed : Bool} {p x : Bytes} {s : State} {r : Bytes × Block} (ha : Accepts .cbcDec s)
    (hkeys : s.keysValid = true) (hwhole : wholeBlocks p = true)
    (hr : cbcDecBlocks s.cipherKey (chainSeed seed s) p = r) (hx : cbcDecOutput f r.1 = .ok x) :
    exec (.cbcDec f seed p) s = .next (chained (x, r.2) s) := by
  subst hr
  refine exec_of_body_ok (i := .cbcDec f seed p) ha nofun ?_
  rw [bodyOf, cbcDecBody_of_keys f seed hkeys hwhole, hx, bind_ok]

/-- Settles O28. -/
theorem cbcEncEncryptsAndChains : Obligations.CbcEncEncryptsAndChains := by
  unfold Obligations.CbcEncEncryptsAndChains
  intro f seed p s ha hkeys hp
  exact exec_cbcEnc ha hkeys (fun hf => (wholeBlocks_iff p).2 (hp hf)) rfl

/-- Settles O29: padding is the last check, so a final call that fails it changes `ERR` and `ERR_OPC` only. -/
theorem cbcDecDecryptsAndChains : Obligations.CbcDecDecryptsAndChains := by
  unfold Obligations.CbcDecDecryptsAndChains
  intro seed p s ha hkeys hpos hmod r
  have hwhole := (wholeBlocks_iff p).2 ⟨hpos, hmod⟩
  refine ⟨exec_cbcDec ha hkeys hwhole rfl rfl, fun x hx => ?padded, fun hx => ?unpadded⟩
  case padded => exact exec_cbcDec (f := true) ha hkeys hwhole rfl (unpadOrRaise_eq_ok.2 hx)
  case unpadded =>
    have hraise : cbcDecOutput true r.1 = .error (.raise .invalidPadding) := unpadOrRaise_eq_error.2 ⟨hx, rfl⟩
    refine exec_of_body_raise (i := .cbcDec true seed p) ha nofun ?_
    rw [bodyOf, cbcDecBody_of_keys true seed hkeys hwhole]
    exact bind_eq_error.2 (.inl hraise)

/-! ### Missing keys and payloads not in whole blocks (R125, R126, R153, R174) -/

/-- The pseudocode of the four commands begins with the check for keys. -/
theorem bodyOf_of_no_keys {i : Instr} {s : State} (hop : i.opcode ∈ [.cbcEnc, .cbcDec, .macNew, .scNew])
    (hkeys : s.keysValid = false) : bodyOf i s = .error (.raise .sequenceError) := by
  cases i with
  | cbcEnc => exact bind_require_of_false hkeys _ _
  | cbcDec => exact bind_require_of_false hkeys _ _
  | macNew => exact bind_require_of_false hkeys _ _
  | scNew => exact bind_require_of_false hkeys _ _
  | _ => simp [Instr.opcode] at hop

/-- Settles O19. -/
theorem missingKeysAreASequenceError : Obligations.MissingKeysAreASequenceError := by
  unfold Obligations.MissingKeysAreASequenceError
  intro i s hop ha hkeys
  have hi : i ≠ .abort := by rintro rfl; exact absurd hop (by decide)
  exact exec_of_body_raise ha hi (bodyOf_of_no_keys hop hkeys)

/-- Settles O30: with keys, the payload's shape is the next check. -/
theorem unalignedInputIsRaised : Obligations.UnalignedInputIsRaised := by
  unfold Obligations.UnalignedInputIsRaised
  intro f seed p s hkeys hp
  have hwhole : wholeBlocks p = false := by
    rw [Bool.eq_false_iff, Ne, wholeBlocks_iff]; omega
  refine ⟨fun ha => ?enc, fun ha => ?dec⟩
  case enc =>
    refine exec_of_body_raise (i := .cbcEnc false seed p) ha nofun ?_
    rw [bodyOf, cbcEncBody, bind_require_of_true hkeys, Bool.false_or, bind_require_of_false hwhole]
  case dec =>
    refine exec_of_body_raise (i := .cbcDec f seed p) ha nofun ?_
    rw [bodyOf, cbcDecBody, bind_require_of_true hkeys, bind_require_of_false hwhole]

/-! ### The splitting law (R127) -/

/-- Two calls in turn leave the bytes of both and the chain state of the second. -/
theorem chained_chained (r q : Bytes × Block) (s : State) : chained q (chained r s) = chained (r.1 ++ q.1, q.2) s := by
  simp only [chained, List.append_assoc]

theorem wholeBlocks_append {a b : Bytes} (ha : wholeBlocks a = true) (hb : wholeBlocks b = true) :
    wholeBlocks (a ++ b) = true := by
  rw [wholeBlocks_iff] at *
  rw [List.length_append]; omega

theorem cbcEncInput_append (f : Bool) {a : Bytes} (b : Bytes) (h : a.length % 16 = 0) :
    cbcEncInput f (a ++ b) = a ++ cbcEncInput f b := by
  cases f with
  | false => rfl
  | true => exact pkcs7Pad_append b h

/-- Plaintext in front is delivered as it is, since unpadding looks at the last block only. -/
theorem cbcDecOutput_append {f : Bool} (a : Bytes) {b y : Bytes} (hb : 16 ≤ b.length) (h : cbcDecOutput f b = .ok y) :
    cbcDecOutput f (a ++ b) = .ok (a ++ y) := by
  cases f with
  | false => cases h; rfl
  | true =>
    refine unpadOrRaise_eq_ok.2 ?_
    rw [pkcs7Unpad_append a hb, unpadOrRaise_eq_ok.1 h, Option.map_some]

theorem cbcDecOutput_completes {f : Bool} {x : Bytes} (h : f = true → pkcs7Unpad x ≠ none) :
    ∃ y, cbcDecOutput f x = .ok y := by
  cases f with
  | false => exact ⟨x, rfl⟩
  | true =>
    obtain ⟨y, hy⟩ := Option.ne_none_iff_exists'.1 (h rfl)
    exact ⟨y, unpadOrRaise_eq_ok.2 hy⟩

/-- The chain state a call left is where the next call without seed starts. -/
theorem chainSeed_chained (r : Bytes × Block) (s : State) : chainSeed false (chained r s) = r.2 := rfl

theorem cbcEnc_split {f : Bool} {a b : Bytes} {s : State} (hacc : Accepts .cbcEnc s) (hkeys : s.keysValid = true)
    (ha : wholeBlocks a = true) (hb : f = false → wholeBlocks b = true) :
    execAll [.cbcEnc false true a, .cbcEnc f false b] s = exec (.cbcEnc f true (a ++ b)) s := by
  obtain ⟨-, hmod⟩ := (wholeBlocks_iff a).1 ha
  have hjoin := cbcEncBlocks_append s.cipherKey s.iv (cbcEncInput f b) hmod
  rw [← cbcEncInput_append f b hmod] at hjoin
  generalize hr : cbcEncBlocks s.cipherKey s.iv a = r at hjoin
  generalize hq : cbcEncBlocks s.cipherKey r.2 (cbcEncInput f b) = q at hjoin
  have hfirst : exec (.cbcEnc false true a) s = .next (chained r s) := exec_cbcEnc hacc hkeys (fun _ => ha) hr
  have hsecond : exec (.cbcEnc f false b) (chained r s) = .next (chained q (chained r s)) :=
    exec_cbcEnc hacc hkeys hb (by rw [chainSeed_chained]; exact hq)
  have hone : exec (.cbcEnc f true (a ++ b)) s = .next (chained (r.1 ++ q.1, q.2) s) :=
    exec_cbcEnc hacc hkeys (fun hf => wholeBlocks_append ha (hb hf)) hjoin
  rw [execAll_cons_of_next hfirst, execAll_singleton, hsecond, hone, chained_chained]

theorem cbcDec_split {f : Bool} {a b : Bytes} {s : State} (hacc : Accepts .cbcDec s) (hkeys : s.keysValid = true)
    (ha : wholeBlocks a = true) (hb : wholeBlocks b = true)
    (hpad : f = true → pkcs7Unpad (cbcDecBlocks s.cipherKey s.iv (a ++ b)).1 ≠ none) :
    execAll [.cbcDec false true a, .cbcDec f false b] s = exec (.cbcDec f true (a ++ b)) s := by
  obtain ⟨-, hmod⟩ := (wholeBlocks_iff a).1 ha
  obtain ⟨hbpos, hbmod⟩ := (wholeBlocks_iff b).1 hb
  have hjoin := cbcDecBlocks_append s.cipherKey s.iv b hmod
  generalize hr : cbcDecBlocks s.cipherKey s.iv a = r at hjoin
  generalize hq : cbcDecBlocks s.cipherKey r.2 b = q at hjoin
  have hlong : 16 ≤ q.1.length := by rw [← hq, length_cbcDecBlocks]; omega
  rw [hjoin, pkcs7Unpad_append _ hlong, Ne, Option.map_eq_none_iff] at hpad
  obtain ⟨y, hy⟩ := cbcDecOutput_completes hpad
  have hfirst : exec (.cbcDec false true a) s = .next (chained r s) := exec_cbcDec hacc hkeys ha hr rfl
  have hsecond : exec (.cbcDec f false b) (chained r s) = .next (chained (y, q.2) (chained r s)) :=
    exec_cbcDec hacc hkeys hb (by rw [chainSeed_chained]; exact hq) hy
  have hone : exec (.cbcDec f true (a ++ b)) s = .next (chained (r.1 ++ y, q.2) s) :=
    exec_cbcDec (r := (r.1 ++ q.1, q.2)) hacc hkeys (wholeBlocks_append ha hb) hjoin (cbcDecOutput_append r.1 hlong hy)
  rw [execAll_cons_of_next hfirst, execAll_singleton, hsecond, hone, chained_chained]

/-- Settles O31: `CBC_ENC` by `cbcEnc_split`, `CBC_DEC` by `cbcDec_split`. -/
theorem chainingSplitLaw : Obligations.ChainingSplitLaw := by
  unfold Obligations.ChainingSplitLaw
  intro f a b s hpos hmod hkeys hb
  have ha := (wholeBlocks_iff a).2 ⟨hpos, hmod⟩
  exact ⟨fun hacc => cbcEnc_split hacc hkeys ha fun hf => (wholeBlocks_iff b).2 (hb hf),
    fun hacc hbpos hbmod => cbcDec_split hacc hkeys ha ((wholeBlocks_iff b).2 ⟨hbpos, hbmod⟩)⟩

/-! ### The inverse law (R128) -/

/-- What a final `CBC_ENC` emits is whole blocks, of any payload. -/
theorem wholeBlocks_sealed (k : Key) (c : Block) (p : Bytes) : wholeBlocks (cbcEncBlocks k c (pkcs7Pad p)).1 = true := by
  rw [wholeBlocks_iff, length_cbcEncBlocks, length_pkcs7Pad]; omega

/-- A final `CBC_DEC` delivers what was sealed from the same chain state. -/
theorem cbcDecOutput_sealed (k : Key) (c : Block) (p : Bytes) :
    cbcDecOutput true (cbcDecBlocks k c (cbcEncBlocks k c (pkcs7Pad p)).1).1 = .ok p := by
  rw [cbcDecBlocks_cbcEncBlocks k c (length_pkcs7Pad_mod p)]
  exact unpadOrRaise_eq_ok.2 (pkcs7Unpad_pkcs7Pad p)

/-- Settles O32: sealed bytes are whole blocks, so the second command gets as far as unpadding, which gives the payload. -/
theorem sealThenOpenReturnsThePayload : Obligations.SealThenOpenReturnsThePayload := by
  unfold Obligations.SealThenOpenReturnsThePayload
  intro p s s' ha hkeys ha' hkeys' hck hiv
  have hopen : cbcDecOutput true
      (cbcDecBlocks s'.cipherKey s'.iv (cbcEncBlocks s.cipherKey s.iv (pkcs7Pad p)).1).1 = .ok p := by
    rw [hck, hiv]; exact cbcDecOutput_sealed _ _ p
  exact ⟨_, _, _, exec_cbcEnc ha hkeys nofun rfl, ha.1, rfl,
    exec_cbcDec ha' hkeys' (wholeBlocks_sealed _ _ p) rfl hopen, ha'.1, rfl⟩

end Sys2Proof.Machine
end

section
/-! PROOFS. The MAC unit (42_mac.md R150 to R157), and the lifecycle of its accumulator and of the sidecar's context, which
the commands of both check first (R154 to R156, R175, R176). -/

namespace Sys2Proof.Machine

open Sys2Proof

/-! ### Contexts that are missing or finalized (R154 to R156, R175, R176) -/

theorem bind_requireLive_of_active {α : Type} {st : Lifecycle} (h : st = .active) (k : Unit → Result α) :
    requireLive st >>= k = k () := by
  rw [h, requireLive_eq, bind_ok]

theorem bind_requireLive_of_none {α : Type} {st : Lifecycle} (h : st = .none) (k : Unit → Result α) :
    requireLive st >>= k = .error (.raise .sequenceError) := by
  rw [h, requireLive_eq, bind_error]

theorem bind_requireLive_of_final {α : Type} {st : Lifecycle} (h : st = .final) (k : Unit → Result α) :
    requireLive st >>= k = .error (.raise .useAfterFinalize) := by
  rw [h, requireLive_eq, bind_error]

/-- The pseudocode of the three commands that use an accumulator begins with its lifecycle. -/
theorem bodyOf_of_mac_context {i : Instr} (s : State) (hop : i.opcode ∈ [.macUpdate, .macFinal, .macVerify]) :
    ∃ k, bodyOf i s = requireLive s.macSt >>= k := by
  cases i with
  | macUpdate | macFinal | macVerify => exact ⟨_, rfl⟩
  | _ => simp [Instr.opcode] at hop

/-- The pseudocode of the two commands that use a sidecar context begins with its lifecycle. -/
theorem bodyOf_of_sc_context {i : Instr} (s : State) (hop : i.opcode ∈ [.scFeed, .scFinal]) :
    ∃ k, bodyOf i s = requireLive s.scSt >>= k := by
  cases i with
  | scFeed | scFinal => exact ⟨_, rfl⟩
  | _ => simp [Instr.opcode] at hop

theorem ne_abort_of_opcode_mem {i : Instr} {ops : List Opcode} (h : i.opcode ∈ ops) (ha : .abort ∉ ops) : i ≠ .abort := by
  rintro rfl
  exact ha h

/-- A command that begins with the lifecycle of a context raises one error without the context, and another after it is
finalized. -/
theorem exec_of_dead_context {i : Instr} {s : State} {st : Lifecycle} (ha : Accepts i.opcode s) (hi : i ≠ .abort)
    (hbody : ∃ k, bodyOf i s = requireLive st >>= k) :
    (st = .none → exec i s = .next (raiseError i.opcode.code .sequenceError s)) ∧
    (st = .final → exec i s = .next (raiseError i.opcode.code .useAfterFinalize s)) := by
  obtain ⟨k, hk⟩ := hbody
  exact ⟨fun h => exec_of_body_raise ha hi (hk.trans (bind_requireLive_of_none h k)),
    fun h => exec_of_body_raise ha hi (hk.trans (bind_requireLive_of_final h k))⟩

/-- Settles O20: the five commands check the lifecycle of their context first. -/
theorem contextLifecycleErrors : Obligations.ContextLifecycleErrors := by
  unfold Obligations.ContextLifecycleErrors
  refine fun i s ha => ⟨fun hop => ?mac, fun hop => ?sidecar⟩
  case mac => exact exec_of_dead_context ha (ne_abort_of_opcode_mem hop (by decide)) (bodyOf_of_mac_context s hop)
  case sidecar => exact exec_of_dead_context ha (ne_abort_of_opcode_mem hop (by decide)) (bodyOf_of_sc_context s hop)

/-! ### Commands on a live accumulator (R150 to R156) -/

theorem exec_macNew {s : State} (ha : Accepts .macNew s) (hkeys : s.keysValid = true) :
    exec .macNew s = .next (macInit s) :=
  exec_of_body_ok (i := .macNew) ha nofun (bind_require_of_true hkeys _ _)

theorem exec_macUpdate {p : Bytes} {s : State} (ha : Accepts .macUpdate s) (hlive : s.macSt = .active) :
    exec (.macUpdate p) s = .next (macFeed p s) :=
  exec_of_body_ok (i := .macUpdate p) ha nofun (bind_requireLive_of_active hlive _)

theorem exec_macFinal {s : State} (ha : Accepts .macFinal s) (hlive : s.macSt = .active) :
    exec .macFinal s = .next (emitOut (macTag s) (macClose s)) :=
  exec_of_body_ok (i := .macFinal) ha nofun (bind_requireLive_of_active hlive _)

/-- The tag of the accumulator, as R150 writes it. -/
theorem macTag_eq (s : State) : macTag s = (bytesOf (Config.hmac (bytesOf s.macKey) s.macMsg)).take 10 := rfl

@[simp] theorem length_macTag (s : State) : (macTag s).length = 10 := length_tag10 _ _

/-- On a live accumulator `MAC_VERIFY` checks the length and then the tag (R156). -/
theorem macVerifyBody_of_live {s : State} (p : Bytes) (hlive : s.macSt = .active) :
    macVerifyBody p s =
      if p.length ≠ 10 then .error (.raise .invalidLength)
      else if p ≠ macTag s then .error (.raise .macMismatch)
      else .ok (macClose s) := by
  rw [macVerifyBody, bind_requireLive_of_active hlive, Config.tagLen]
  by_cases hlen : p.length = 10
  · rw [if_neg (not_not_intro hlen), bind_require_of_true (beq_iff_eq.2 hlen)]
    by_cases htag : p = macTag s
    · rw [if_neg (not_not_intro htag), bind_require_of_true (ctEq10_macTag.2 htag)]
      rfl
    · rw [if_pos htag, bind_require_of_false (Bool.eq_false_iff.2 (mt ctEq10_macTag.1 htag))]
  · rw [if_pos hlen, bind_require_of_false (beq_eq_false_iff_ne.2 hlen)]

theorem exec_macVerify_tag {s : State} (ha : Accepts .macVerify s) (hlive : s.macSt = .active) :
    exec (.macVerify (macTag s)) s = .next (macClose s) := by
  refine exec_of_body_ok (i := .macVerify (macTag s)) ha nofun ?_
  rw [bodyOf, macVerifyBody_of_live _ hlive, if_neg (not_not_intro (length_macTag s)), if_neg (not_not_intro rfl)]

/-- Settles O34. -/
theorem macAccumulatorStartsAndGrows : Obligations.MacAccumulatorStartsAndGrows := by
  unfold Obligations.MacAccumulatorStartsAndGrows
  exact ⟨fun _ => exec_macNew, fun _ _ => exec_macUpdate⟩

/-- Settles O35. -/
theorem macFinalAndVerifyUseTheTruncatedHmac : Obligations.MacFinalAndVerifyUseTheTruncatedHmac := by
  unfold Obligations.MacFinalAndVerifyUseTheTruncatedHmac
  intro s hlive
  rw [← macTag_eq]
  exact ⟨fun ha => exec_macFinal ha hlive, fun ha => exec_macVerify_tag ha hlive⟩

/-- Settles O36: the comparison is equality, whatever the position of a difference (R151), so every other tag fails it. -/
theorem macVerifyRejectsEveryOtherTag : Obligations.MacVerifyRejectsEveryOtherTag := by
  unfold Obligations.MacVerifyRejectsEveryOtherTag
  intro p s ha hlive
  have hbody := macVerifyBody_of_live p hlive
  rw [← macTag_eq]
  refine ⟨fun hlen => ?length, fun hlen htag => ?mismatch⟩
  case length => exact exec_of_body_raise (i := .macVerify p) ha nofun (hbody.trans (if_pos hlen))
  case mismatch =>
    rw [if_neg (not_not_intro hlen), if_pos htag] at hbody
    exact exec_of_body_raise (i := .macVerify p) ha nofun hbody

/-! ### The chunk law (R157) -/

@[simp] theorem macFeed_nil (s : State) : macFeed [] s = s := by
  rw [macFeed, List.append_nil]

@[simp] theorem macFeed_macFeed (a b : Bytes) (s : State) : macFeed b (macFeed a s) = macFeed (a ++ b) s := by
  simp only [macFeed, List.append_assoc]

/-- An update finds a live accumulator, or does the same in the state whatever its bytes: it leaves an error latched. -/
theorem macUpdate_feeds_or_stops (s : State) :
    (Accepts .macUpdate s ∧ s.macSt = .active) ∨ ∃ t : State, t.err ≠ none ∧ ∀ p, exec (.macUpdate p) s = .next t := by
  rcases accepts_or_rejects .macUpdate s with ha | ⟨t, ht, hrun⟩
  · have hdead (p : Bytes) := exec_of_dead_context (i := .macUpdate p) ha nofun ⟨_, rfl⟩
    cases hst : s.macSt with
    | active => exact .inl ⟨ha, rfl⟩
    | none => exact .inr ⟨raiseError Opcode.macUpdate.code .sequenceError s, nofun, fun p => (hdead p).1 hst⟩
    | final => exact .inr ⟨raiseError Opcode.macUpdate.code .useAfterFinalize s, nofun, fun p => (hdead p).2 hst⟩
  · exact .inr ⟨t, ht, fun _ => hrun _⟩

/-- Updates of a live accumulator leave it live, with all their bytes appended. -/
theorem execAll_macUpdate_of_live (parts : List Bytes) {s : State} (ha : Accepts .macUpdate s) (hlive : s.macSt = .active) :
    execAll (parts.map .macUpdate) s = .next (macFeed parts.flatten s) := by
  induction parts generalizing s with
  | nil => simp
  | cons p parts ih =>
    rw [List.map_cons, execAll_cons_of_next (exec_macUpdate ha hlive), ih (s := macFeed p s) ha hlive,
      macFeed_macFeed, List.flatten_cons]

/-- Settles O37: on a live accumulator both sides append the same bytes; elsewhere the first update stops as the joined one
does, and the others have no effect. -/
theorem macUpdatesAreChunkIndependent : Obligations.MacUpdatesAreChunkIndependent := by
  unfold Obligations.MacUpdatesAreChunkIndependent
  intro parts s hne
  rcases macUpdate_feeds_or_stops s with ⟨ha, hlive⟩ | ⟨t, ht, hstop⟩
  · rw [execAll_macUpdate_of_live parts ha hlive, exec_macUpdate ha hlive]
  · obtain ⟨p, rest, rfl⟩ := List.exists_cons_of_ne_nil hne
    rw [List.map_cons, execAll_cons_of_next (hstop p), execAll_of_err ht (by simp), hstop]

end Sys2Proof.Machine
end

section
/-! PROOFS. The decrypt pipeline (45_decrypt_pipeline.md R210, R211, R213): what its commands do where they complete, the
first two checks of `DEC_END`, and the inputs that fail them (R217). -/

namespace Sys2Proof.Machine

open Sys2Proof

/-! ### Starting and feeding (R210, R211) -/

/-- `s` with a fresh decrypt pipeline under the keys `k` (R210). -/
def decOpened (k : KeySet) (s : State) : State :=
  { macInit (loadKeys k s) with
    scEn := false, tail := [], spool := [], consumed := 0, emitted := 0
    drained := false, finalized := false, mode := .dec }

/-- `s` after its decrypt pipeline took `p`: all but the last 10 bytes of what it held back and of `p` are spooled (R211). -/
def spooled (p : Bytes) (s : State) : State :=
  let buf := s.tail ++ p
  let k := buf.length - 10
  { s with
    macMsg := s.macMsg ++ buf.take k, spool := s.spool ++ buf.take k, tail := buf.drop k
    consumed := BitVec.ofNat 64 (s.consumed.toNat + p.length) }

theorem exec_decStart {mt : MediaType} {p : Bytes} {s : State} (ha : Accepts .decStart s) (h : p.length = 32) :
    exec (.decStart mt p) s = .next (decOpened (derivedKeys p mt) s) :=
  exec_of_body_ok (i := .decStart mt p) ha nofun (bind_derive_of_length mt h _)

theorem exec_decFeed {p : Bytes} {s : State} (ha : Accepts .decFeed s)
    (hspool : spoolFits s.params.spoolCap (s.spool.length + ((s.tail ++ p).length - 10)) = true)
    (hcons : s.consumed.toNat + p.length < 2 ^ 64) : exec (.decFeed p) s = .next (spooled p s) := by
  refine exec_of_body_ok (i := .decFeed p) ha nofun ?_
  simp only [bodyOf, decFeedBody, nonTrailerLen, Config.tagLen, slice_zero]
  rw [bind_require_of_true hspool, macFeed_consumed, bind_toCounter_of_lt hcons]
  rfl

/-- A start leaves an engine that takes the other commands of the pipeline. -/
theorem accepts_decOpened {s : State} (k : KeySet) (ha : Accepts .decStart s) :
    Accepts .decFeed (decOpened k s) ∧ ∀ p, Accepts .decEnd (spooled p (decOpened k s)) :=
  ⟨⟨ha.1, nofun, rfl⟩, fun _ => ⟨ha.1, nofun, rfl⟩⟩

/-- A run that feeds its input at once comes down to `DEC_END`. -/
theorem execAll_decryptRun {mt : MediaType} {key input : Bytes} {s : State} (ha : Accepts .decStart s)
    (hkey : key.length = 32) (hspool : spoolFits s.params.spoolCap (input.length - 10) = true)
    (hlen : input.length < 2 ^ 64) :
    execAll (decryptRun mt key [input]) s = exec .decEnd (spooled input (decOpened (derivedKeys key mt) s)) := by
  obtain ⟨hfeed, -⟩ := accepts_decOpened (derivedKeys key mt) ha
  have hfed : exec (.decFeed input) (decOpened (derivedKeys key mt) s) = .next (spooled input (decOpened _ s)) :=
    exec_decFeed hfeed (by simpa [decOpened] using hspool) (by simpa [decOpened] using hlen)
  rw [decryptRun, execAll_cons_of_next (exec_decStart ha hkey), List.map_singleton, List.singleton_append,
    execAll_cons_of_next hfed, execAll_singleton]

/-! ### The checks of length and tag (R213) -/

theorem exec_decEnd_of_short {s : State} (ha : Accepts .decEnd s) (h : s.consumed.toNat < 10) :
    exec .decEnd s = .next (raiseError Opcode.decEnd.code .invalidLength s) := by
  refine exec_of_body_raise (i := .decEnd) ha nofun ?_
  rw [bodyOf, decEndBody, Config.tagLen, bind_require_of_false (decide_eq_false (Nat.not_le.2 h))]

theorem exec_decEnd_of_mismatch {s : State} (ha : Accepts .decEnd s) (hlen : 10 ≤ s.consumed.toNat)
    (htag : s.tail ≠ macTag s) : exec .decEnd s = .next (raiseError Opcode.decEnd.code .macMismatch s) := by
  refine exec_of_body_raise (i := .decEnd) ha nofun ?_
  rw [bodyOf, decEndBody, Config.tagLen, bind_require_of_true (decide_eq_true hlen),
    bind_require_of_false (Bool.eq_false_iff.2 (mt ctEq10_macTag.1 htag))]

/-! ### Inputs with a wrong trailer, or too short for one (R217) -/

theorem consumed_spooled_decOpened {input : Bytes} (k : KeySet) (s : State) (hlen : input.length < 2 ^ 64) :
    (spooled input (decOpened k s)).consumed.toNat = input.length := by
  simpa [spooled, decOpened] using hlen

/-- A trailer of 10 bytes is held back whole. -/
theorem tail_spooled_decOpened (k : KeySet) (c : Bytes) {trailer : Bytes} (s : State) (h : trailer.length = 10) :
    (spooled (c ++ trailer) (decOpened k s)).tail = trailer := by
  simp [spooled, decOpened, h]

/-- The bytes before a trailer of 10 bytes are what the tag is computed of. -/
theorem macTag_spooled_decOpened (k : KeySet) (c : Bytes) {trailer : Bytes} (s : State) (h : trailer.length = 10) :
    macTag (spooled (c ++ trailer) (decOpened k s)) = tag10 k.macKey (bytesOf k.iv ++ c) := by
  simp [macTag, spooled, decOpened, h]

/-- No byte leaves the pipeline before `DEC_END`. -/
theorem out_spooled_decOpened (k : KeySet) (input : Bytes) (s : State) :
    (spooled input (decOpened k s)).out = s.out := rfl

/-- Settles O55: the run comes down to `DEC_END`, which stops at its first check for a short input, at its second for a wrong
trailer; an error changes `ERR` and `ERR_OPC` only. -/
theorem tamperedTrailerIsRejected : Obligations.TamperedTrailerIsRejected := by
  unfold Obligations.TamperedTrailerIsRejected
  intro mt key c trailer s ha hkey hlen hspool k
  obtain ⟨-, hend⟩ := accepts_decOpened k ha
  refine ⟨fun htrailer htag => ?mismatch, fun hc hshort => ?short⟩
  case mismatch =>
    have hlen' : (c ++ trailer).length < 2 ^ 64 := by rwa [List.length_append]
    have hrest : (c ++ trailer).length - 10 = c.length := by rw [List.length_append, htrailer, Nat.add_sub_cancel]
    refine ⟨_, (execAll_decryptRun ha hkey (by rwa [hrest]) hlen').trans (exec_decEnd_of_mismatch (hend _) ?_ ?_), rfl,
      out_spooled_decOpened k (c ++ trailer) s⟩
    · rw [consumed_spooled_decOpened _ _ hlen', List.length_append]; omega
    · rwa [tail_spooled_decOpened _ _ _ htrailer, macTag_spooled_decOpened _ _ _ htrailer]
  case short =>
    subst hc
    have hlen' : trailer.length < 2 ^ 64 := by omega
    have hrest : trailer.length - 10 = 0 := by omega
    refine ⟨_, (execAll_decryptRun ha hkey (by rwa [hrest]) hlen').trans (exec_decEnd_of_short (hend _) ?_), rfl,
      out_spooled_decOpened k trailer s⟩
    rwa [consumed_spooled_decOpened _ _ hlen']

end Sys2Proof.Machine
end

section
/-! PROOFS. The sidecar unit (43_sidecar.md R170 to R179): what its commands do on a live context, the closed form of the
windows of a byte string fed to a fresh one (R177), and the chunk law (R178). -/

namespace Sys2Proof.Machine

open Sys2Proof

/-! ### Commands that complete (R170 to R176) -/

theorem exec_scNew {s : State} (ha : Accepts .scNew s) (hkeys : s.keysValid = true) :
    exec .scNew s = .next (scInit s) :=
  exec_of_body_ok (i := .scNew) ha nofun (bind_require_of_true hkeys _ _)

/-- A feed of a live context completes in the closed form. -/
theorem exec_scFeed {p : Bytes} {s : State} (ha : Accepts .scFeed s) (hlive : s.scSt = .active)
    (hfit : SidecarCountersFit p s) : exec (.scFeed p) s = .next (sidecarFed p s) := by
  refine exec_of_body_ok (i := .scFeed p) ha nofun ?_
  rw [bodyOf, scFeedBody, bind_requireLive_of_active hlive, scFeed_eq, if_pos hfit]

/-- A release of a live context completes in the closed form; it counts only a trailing window. -/
theorem exec_scFinal {s : State} (ha : Accepts .scFinal s) (hlive : s.scSt = .active)
    (hfit : s.scNext.toNat < s.scEnd.toNat → s.scCount.toNat + 1 < 2 ^ 64) :
    exec .scFinal s = .next (sidecarReleased s) := by
  refine exec_of_body_ok (i := .scFinal) ha nofun ?_
  rw [bodyOf, scFinalBody, bind_requireLive_of_active hlive, scFinalize_eq, if_pos hfit]

/-- Settles O38. -/
theorem sidecarFeedTagsFullWindows : Obligations.SidecarFeedTagsFullWindows := by
  unfold Obligations.SidecarFeedTagsFullWindows
  exact fun _ _ => exec_scFeed

/-- Settles O39. -/
theorem sidecarContextStartsAndReleases : Obligations.SidecarContextStartsAndReleases := by
  unfold Obligations.SidecarContextStartsAndReleases
  exact ⟨fun _ => exec_scNew, fun _ ha hlive hcount => exec_scFinal ha hlive fun _ => hcount⟩

/-! ### The chunk law (R178) -/

/-- A feed finds a live context, or does the same in the state whatever its bytes: it leaves an error latched. -/
theorem scFeed_feeds_or_stops (s : State) :
    (Accepts .scFeed s ∧ s.scSt = .active) ∨ ∃ t : State, t.err ≠ none ∧ ∀ p, exec (.scFeed p) s = .next t := by
  rcases accepts_or_rejects .scFeed s with ha | ⟨t, ht, hrun⟩
  · have hdead (p : Bytes) := exec_of_dead_context (i := .scFeed p) ha nofun ⟨_, rfl⟩
    cases hst : s.scSt with
    | active => exact .inl ⟨ha, rfl⟩
    | none => exact .inr ⟨raiseError Opcode.scFeed.code .sequenceError s, nofun, fun p => (hdead p).1 hst⟩
    | final => exact .inr ⟨raiseError Opcode.scFeed.code .useAfterFinalize s, nofun, fun p => (hdead p).2 hst⟩
  · exact .inr ⟨t, ht, fun _ => hrun _⟩

/-- Everything a feed of a live context can do: the closed form, or a refusal where a counter would pass 2^64 − 1. -/
theorem exec_scFeed_of_live {s : State} (p : Bytes) (ha : Accepts .scFeed s) (hlive : s.scSt = .active) :
    exec (.scFeed p) s = if SidecarCountersFit p s then .next (sidecarFed p s) else .refused .counterOverflow := by
  by_cases hfit : SidecarCountersFit p s
  · rw [if_pos hfit, exec_scFeed ha hlive hfit]
  · rw [if_neg hfit, scFeed_refused ha hlive (not_not.1 (mt sidecarCountersFit_iff_not_overflows.2 hfit))]

/-- After a feed that completed, a second one does what one feed of both does, a refusal included. -/
theorem exec_scFeed_sidecarFed {a : Bytes} {s : State} (b : Bytes) (ha : Accepts .scFeed s) (hlive : s.scSt = .active)
    (hfit : SidecarCountersFit a s) : exec (.scFeed b) (sidecarFed a s) = exec (.scFeed (a ++ b)) s := by
  have hjoined : SidecarCountersFit (a ++ b) s ↔ SidecarCountersFit b (sidecarFed a s) :=
    (sidecarCountersFit_append a b s).trans (and_iff_right hfit)
  rw [exec_scFeed_of_live b (s := sidecarFed a s) ha hlive, exec_scFeed_of_live (a ++ b) ha hlive,
    sidecarFed_append b hfit]
  exact if_congr hjoined.symm rfl rfl

/-- Feeds of a live context do what one feed of the joined bytes does: where the first is refused, so is the joined one. -/
theorem execAll_scFeed_of_live (p : Bytes) (parts : List Bytes) {s : State} (ha : Accepts .scFeed s)
    (hlive : s.scSt = .active) :
    execAll ((p :: parts).map .scFeed) s = exec (.scFeed (p :: parts).flatten) s := by
  induction parts generalizing p s with
  | nil => rw [List.map_singleton, execAll_singleton, List.flatten_singleton]
  | cons q rest ih =>
    rw [List.map_cons, List.flatten_cons]
    by_cases hfit : SidecarCountersFit p s
    · rw [execAll_cons_of_next (exec_scFeed ha hlive hfit), ih q (s := sidecarFed p s) ha hlive,
        exec_scFeed_sidecarFed _ ha hlive hfit]
    · have hjoined : ¬ SidecarCountersFit (p ++ (q :: rest).flatten) s :=
        fun h => hfit ((sidecarCountersFit_append p _ s).1 h).1
      have hfirst := (exec_scFeed_of_live p ha hlive).trans (if_neg hfit)
      rw [execAll_cons_of_refused hfirst, exec_scFeed_of_live _ ha hlive, if_neg hjoined]

/-- Settles O41: on a live context feeds join; elsewhere the first feed stops as the joined one does, and the others have no
effect. -/
theorem sidecarFeedsAreChunkIndependent : Obligations.SidecarFeedsAreChunkIndependent := by
  unfold Obligations.SidecarFeedsAreChunkIndependent
  intro parts s hne
  obtain ⟨p, rest, rfl⟩ := List.exists_cons_of_ne_nil hne
  rcases scFeed_feeds_or_stops s with ⟨ha, hlive⟩ | ⟨t, ht, hstop⟩
  · exact execAll_scFeed_of_live p rest ha hlive
  · rw [List.map_cons, execAll_cons_of_next (hstop p), execAll_of_err ht (by simp), hstop]

/-! ### The windows of a byte string (R177) -/

/-- Bytes are left after the full windows, for a trailing one, exactly if there were any. -/
theorem fullWindows_lt_iff (n : Nat) : 65536 * fullWindows n < n ↔ n ≠ 0 := by
  unfold fullWindows; omega

/-- `N(L)` is the full windows and the trailing one, if there is one. -/
theorem windowCount_eq_ite (n : Nat) :
    windowCount n = if 65536 * fullWindows n < n then fullWindows n + 1 else fullWindows n := by
  by_cases hn : n = 0
  · subst hn; rfl
  · rw [windowCount_eq n hn, if_pos ((fullWindows_lt_iff n).2 hn)]

/-- The trailing window is all that is left after the full ones. -/
theorem windowTag_fullWindows (mk : Key) (c : Bytes) :
    windowTag mk c (fullWindows c.length) = tag10 mk (c.drop (65536 * fullWindows c.length)) := by
  have hshort : c.length ≤ fullWindows c.length * 65536 + 65552 := by
    have hrest := length_rest_lt c.length
    omega
  rw [windowTag, Nat.min_eq_left hshort, slice, Nat.mul_comm, List.take_of_length_le (List.length_drop ..).le]

/-- `sidecar(C)` is the tags of the full windows and of the trailing one, if there is one. -/
theorem sidecarOf_eq (mk : Key) (c : Bytes) :
    sidecarOf mk c = windowTags mk c (fullWindows c.length) ++
      if 65536 * fullWindows c.length < c.length then tag10 mk (c.drop (65536 * fullWindows c.length)) else [] := by
  rw [sidecarOf, windowCount_eq_ite]
  by_cases htrail : 65536 * fullWindows c.length < c.length
  · rw [if_pos htrail, if_pos htrail, windowTags_add, ← windowTag_fullWindows]
    simp
  · rw [if_neg htrail, if_neg htrail, List.append_nil]

/-! ### A fresh context, fed and released (R177, R179) -/

/-- A sidecar context that no byte was fed to (R170). -/
structure FreshSidecar (s : State) : Prop where
  scBuf_eq : s.scBuf = []
  scTags_eq : s.scTags = []
  scNext_eq : s.scNext = 0#64
  scEnd_eq : s.scEnd = 0#64
  scCount_eq : s.scCount = 0#64

theorem freshSidecar_scInit (s : State) : FreshSidecar (scInit s) := ⟨rfl, rfl, rfl, rfl, rfl⟩

namespace FreshSidecar
variable {s : State} (h : FreshSidecar s) {c : Bytes} (hc : c.length < 2 ^ 64)
include h hc

/-- A fresh context takes every byte string whose length `SC_END` can hold. -/
theorem countersFit : SidecarCountersFit c s := by
  have hwindows := fullWindows_fit c.length
  simp only [SidecarCountersFit, h.scBuf_eq, h.scNext_eq, h.scEnd_eq, h.scCount_eq, List.length_nil, BitVec.toNat_zero,
    Nat.zero_add]
  omega

theorem scNext_sidecarFed : (sidecarFed c s).scNext.toNat = 65536 * fullWindows c.length := by
  have hwindows := fullWindows_fit c.length
  simp only [sidecarFed_scNext, h.scBuf_eq, h.scNext_eq, List.nil_append, BitVec.toNat_ofNat]
  omega

theorem scEnd_sidecarFed : (sidecarFed c s).scEnd.toNat = c.length := by
  simp only [sidecarFed_scEnd, h.scEnd_eq, BitVec.toNat_ofNat]
  omega

theorem scCount_sidecarFed : (sidecarFed c s).scCount.toNat = fullWindows c.length := by
  have hwindows := fullWindows_fit c.length
  simp only [sidecarFed_scCount, h.scBuf_eq, h.scCount_eq, List.nil_append, BitVec.toNat_ofNat]
  omega

/-- The trailing window can be counted: there is at most one full window for every 65536 bytes. -/
theorem scCount_sidecarFed_succ_lt : (sidecarFed c s).scCount.toNat + 1 < 2 ^ 64 := by
  rw [h.scCount_sidecarFed hc]
  have hwindows := fullWindows_fit c.length
  omega

theorem sco_sidecarReleased : (sidecarReleased (sidecarFed c s)).sco = s.sco ++ sidecarOf s.macKey c := by
  rw [sidecarReleased_sco, h.scNext_sidecarFed hc, h.scEnd_sidecarFed hc, sidecarOf_eq]
  simp only [sidecarFed_sco, sidecarFed_macKey, sidecarFed_scTags, sidecarFed_scBuf, h.scBuf_eq, h.scTags_eq, List.nil_append]

theorem scCount_sidecarReleased : (sidecarReleased (sidecarFed c s)).scCount.toNat = windowCount c.length := by
  have hlt := h.scCount_sidecarFed_succ_lt hc
  rw [sidecarReleased_scCount, windowCount_eq_ite, h.scNext_sidecarFed hc, h.scEnd_sidecarFed hc]
  rw [apply_ite BitVec.toNat, BitVec.toNat_ofNat, Nat.mod_eq_of_lt hlt, h.scCount_sidecarFed hc]

end FreshSidecar

/-- Settles O40: the new context is fresh and takes the whole byte string at once, and the release adds its trailing
window. -/
theorem sidecarClosedForm : Obligations.SidecarClosedForm := by
  unfold Obligations.SidecarClosedForm
  intro c s ha hkeys hc
  have hfresh := freshSidecar_scInit s
  have hfeed : exec (.scFeed c) (scInit s) = .next (sidecarFed c (scInit s)) :=
    exec_scFeed ha rfl (hfresh.countersFit hc)
  have hfinal : exec .scFinal (sidecarFed c (scInit s)) = .next (sidecarReleased (sidecarFed c (scInit s))) :=
    exec_scFinal ha rfl fun _ => hfresh.scCount_sidecarFed_succ_lt hc
  refine ⟨sidecarReleased (sidecarFed c (scInit s)), ?run, ha.1, hfresh.sco_sidecarReleased hc, ?length, rfl,
    hfresh.scCount_sidecarReleased hc, hfresh.scEnd_sidecarFed hc⟩
  case run =>
    rw [execAll_cons_of_next (exec_scNew ha hkeys), execAll_cons_of_next hfeed, execAll_singleton, hfinal]
  case length =>
    rw [hfresh.sco_sidecarReleased hc, List.length_append, sidecarOf, length_windowTags]
    rfl

end Sys2Proof.Machine
end

section
/-! PROOFS. The encrypt pipeline (44_encrypt_pipeline.md R190 to R197): what its commands do where they complete, the chunk
law of its feeds, refusals included (R195), and the wire format of a whole run (R196, R197). -/

namespace Sys2Proof.Machine

open Sys2Proof

/-! ### Deliveries one after the other (R191) -/

/-- No counter that a delivery of `y` adds to passes 2^64 − 1 (R9, R191). -/
abbrev DeliveryFits (y : Bytes) (s : State) : Prop :=
  (s.scEn = true → SidecarCountersFit y s) ∧ s.emitted.toNat + y.length < 2 ^ 64

/-- Between deliveries the pipeline's sidecar, if it has one, holds less than a window (R29, R37). -/
def SidecarShort (s : State) : Prop := s.scEn = true → s.scBuf.length < 65552

theorem fullWindows_of_short {n : Nat} (h : n < 65552) : fullWindows n = 0 := by
  unfold fullWindows; omega

theorem sidecarFed_nil {s : State} (h : s.scBuf.length < 65552) : sidecarFed [] s = s := by
  simp [sidecarFed, fullWindows_of_short h]

/-- Delivering nothing changes nothing; so `ENC_FEED` may leave it out (R192). -/
theorem delivered_nil {s : State} (h : SidecarShort s) : delivered [] s = s := by
  cases hen : s.scEn with
  | true => simp [delivered_of_enabled hen, sidecarFed_nil (h hen)]
  | false => simp [delivered_of_disabled hen]

theorem deliveryFits_nil {s : State} (h : SidecarShort s) : DeliveryFits [] s := by
  refine ⟨fun hen => ?_, s.emitted.isLt⟩
  have hend := s.scEnd.isLt
  have hcount := s.scCount.isLt
  have hnext := s.scNext.isLt
  simp only [SidecarCountersFit, List.length_nil, Nat.add_zero, fullWindows_of_short (h hen)]
  omega

theorem sidecarShort_delivered {y : Bytes} {s : State} : SidecarShort (delivered y s) := by
  intro hen
  have hrest := length_rest_lt (s.scBuf ++ y).length
  rw [delivered_scEn] at hen
  rwa [delivered_scBuf, if_pos hen, sidecarFed_scBuf, List.length_drop]

theorem emitted_delivered {y : Bytes} {s : State} (h : DeliveryFits y s) :
    (delivered y s).emitted.toNat = s.emitted.toNat + y.length := by
  rw [delivered_emitted, BitVec.toNat_ofNat, Nat.mod_eq_of_lt h.2]

/-- Delivering a joined byte string is delivering its parts in turn. -/
theorem delivered_append {a : Bytes} (b : Bytes) {s : State} (h : DeliveryFits a s) :
    delivered (a ++ b) s = delivered b (delivered a s) := by
  have hemit : s.emitted.toNat + (a ++ b).length = (delivered a s).emitted.toNat + b.length := by
    rw [emitted_delivered h, List.length_append, Nat.add_assoc]
  cases hen : s.scEn with
  | true =>
    rw [delivered_of_enabled (s := delivered a s) hen, ← hemit, delivered_of_enabled hen, delivered_of_enabled hen,
      sidecarFed_append b (h.1 hen)]
    simp only [List.append_assoc]
    rfl
  | false =>
    rw [delivered_of_disabled (s := delivered a s) hen, ← hemit, delivered_of_disabled hen, delivered_of_disabled hen]
    simp only [List.append_assoc]

/-- A joined byte string fits exactly when its parts do in turn. -/
theorem deliveryFits_append (a b : Bytes) (s : State) :
    DeliveryFits (a ++ b) s ↔ DeliveryFits a s ∧ DeliveryFits b (delivered a s) := by
  have hside : (s.scEn = true → SidecarCountersFit (a ++ b) s) ↔
      (s.scEn = true → SidecarCountersFit a s) ∧ (s.scEn = true → SidecarCountersFit b (delivered a s)) := by
    rw [← imp_and]
    refine imp_congr_right fun hen => ?_
    rw [delivered_of_enabled hen]
    exact sidecarCountersFit_append a b s
  have hemit : s.emitted.toNat + (a ++ b).length < 2 ^ 64 ↔ s.emitted.toNat + a.length < 2 ^ 64 ∧
      (delivered a s).emitted.toNat + b.length < 2 ^ 64 := by
    rw [List.length_append, delivered_emitted, BitVec.toNat_ofNat]
    omega
  rw [DeliveryFits, hside, hemit]
  exact and_and_and_comm

/-! ### The full blocks of a buffer that grows (R192) -/

theorem fullLen_append (a b : Bytes) : fullLen (a ++ b) = fullLen a + fullLen (a.drop (fullLen a) ++ b) := by
  simp only [fullLen_eq, List.length_append, List.length_drop]
  omega

theorem take_fullLen_append (a b : Bytes) :
    (a ++ b).take (fullLen (a ++ b)) =
      a.take (fullLen a) ++ (a.drop (fullLen a) ++ b).take (fullLen (a.drop (fullLen a) ++ b)) := by
  rw [fullLen_append, List.take_add, List.take_append_of_le_length (fullLen_le a),
    List.drop_append_of_le_length (fullLen_le a)]

theorem drop_fullLen_append (a b : Bytes) :
    (a ++ b).drop (fullLen (a ++ b)) =
      (a.drop (fullLen a) ++ b).drop (fullLen (a.drop (fullLen a) ++ b)) := by
  rw [fullLen_append, ← List.drop_drop, List.drop_append_of_le_length (fullLen_le a)]

theorem length_take_fullLen_mod (buf : Bytes) : (buf.take (fullLen buf)).length % 16 = 0 := by
  rw [length_take_fullLen, fullLen_eq, Nat.mul_mod_right]

/-- What is left after the full blocks is shorter than a block. -/
theorem length_drop_fullLen_lt (buf : Bytes) : (buf.drop (fullLen buf)).length < 16 := by
  rw [List.length_drop, fullLen_eq]
  omega

/-- Padding pads what is left after the full blocks (R123). -/
theorem pkcs7Pad_eq_fullLen (buf : Bytes) : pkcs7Pad buf = buf.take (fullLen buf) ++ pkcs7Pad (buf.drop (fullLen buf)) := by
  rw [← pkcs7Pad_append _ (length_take_fullLen_mod buf), List.take_append_drop]

/-! ### `ENC_FEED` (R192) -/

/-- The ciphertext of the full blocks of the pending bytes and `p`, and the chain state after them (R192). -/
def feedCipher (p : Bytes) (s : State) : Bytes × Block :=
  cbcEncBlocks s.cipherKey s.chain ((s.pend ++ p).take (fullLen (s.pend ++ p)))

/-- `s` after its encrypt pipeline took `p` (R192). -/
def encFed (p : Bytes) (s : State) : State :=
  { delivered (feedCipher p s).1 s with
    chain := (feedCipher p s).2, pend := (s.pend ++ p).drop (fullLen (s.pend ++ p))
    consumed := BitVec.ofNat 64 (s.consumed.toNat + p.length) }

/-- No counter that a feed of `p` adds to passes 2^64 − 1 (R9, R192). -/
abbrev FeedFits (p : Bytes) (s : State) : Prop :=
  DeliveryFits (feedCipher p s).1 s ∧ s.consumed.toNat + p.length < 2 ^ 64

theorem length_feedCipher (p : Bytes) (s : State) : (feedCipher p s).1.length = fullLen (s.pend ++ p) := by
  rw [feedCipher, length_cbcEncBlocks, length_take_fullLen, fullLen_eq]
  omega

/-- With no full block there is no ciphertext, and the chain stays. -/
theorem feedCipher_of_short {p : Bytes} {s : State} (h : (s.pend ++ p).length < 16) : feedCipher p s = ([], s.chain) := by
  have h0 : fullLen (s.pend ++ p) = 0 := by rw [fullLen_eq]; omega
  rw [feedCipher, h0, List.take_zero, cbcEncBlocks_nil]

/-- Everything the encryption of a feed's full blocks can do; with none it is a delivery of nothing. -/
theorem encFullBlocks_eq (p : Bytes) {s : State} (h : SidecarShort s) :
    encFullBlocks (s.pend ++ p) s =
      if DeliveryFits (feedCipher p s).1 s then
        .ok { delivered (feedCipher p s).1 s with chain := (feedCipher p s).2 }
      else .error (.refuse .counterOverflow) := by
  by_cases hb : (s.pend ++ p).length < 16
  · rw [feedCipher_of_short hb, encFullBlocks_of_short s hb, if_pos (deliveryFits_nil h), delivered_nil h]
  · rw [encFullBlocks_of_long s (Nat.le_of_not_lt hb), encBlocks_eq]
    rfl

/-- Everything a feed can do where it is accepted: the closed form, or a refusal where a counter would pass 2^64 − 1. -/
theorem exec_encFeed_eq (p : Bytes) {s : State} (ha : Accepts .encFeed s) (h : SidecarShort s) :
    exec (.encFeed p) s = if FeedFits p s then .next (encFed p s) else .refused .counterOverflow := by
  have hblocks := encFullBlocks_eq p h
  by_cases hfit : FeedFits p s
  · obtain ⟨hdeliver, hcons⟩ := hfit
    rw [if_pos ⟨hdeliver, hcons⟩]
    refine exec_of_body_ok (i := .encFeed p) ha nofun ?_
    rw [bodyOf, encFeedBody, hblocks, if_pos hdeliver, bind_ok, delivered_consumed, bind_toCounter_of_lt hcons]
    rfl
  · rw [if_neg hfit]
    refine exec_of_body_refuse (i := .encFeed p) ha nofun ?_
    rw [bodyOf, encFeedBody, hblocks]
    by_cases hdeliver : DeliveryFits (feedCipher p s).1 s
    · have hcons : 2 ^ 64 ≤ s.consumed.toNat + p.length := Nat.le_of_not_lt fun h => hfit ⟨hdeliver, h⟩
      rw [if_pos hdeliver, bind_ok, delivered_consumed, bind_toCounter_of_le hcons]
    · rw [if_neg hdeliver, bind_error]

theorem exec_encFeed {p : Bytes} {s : State} (ha : Accepts .encFeed s) (h : SidecarShort s) (hfit : FeedFits p s) :
    exec (.encFeed p) s = .next (encFed p s) := by
  rw [exec_encFeed_eq p ha h, if_pos hfit]

/-- Settles O44: the closed form of a feed, with the number of full bytes written out. -/
theorem encFeedEncryptsFullBlocks : Obligations.EncFeedEncryptsFullBlocks := by
  unfold Obligations.EncFeedEncryptsFullBlocks
  intro p s ha buf n r hemit hcons hside
  have hlen : r.1.length = n := length_feedCipher p s
  exact exec_encFeed ha (fun hen => (hside hen).1) ⟨⟨fun hen => (hside hen).2, by rwa [← hlen] at hemit⟩, hcons⟩

/-! ### The chunk law of feeds (R195) -/

/-- What a start and every feed leave: `ENC_FEED` is accepted, less than a block is pending, and the sidecar, if there is
one, holds less than a window (R37). -/
structure FeedReady (s : State) : Prop where
  accepts : Accepts .encFeed s
  pend_short : s.pend.length < 16
  sidecar_short : SidecarShort s

theorem feedReady_encFed {p : Bytes} {s : State} (h : FeedReady s) : FeedReady (encFed p s) where
  accepts := h.accepts
  pend_short := length_drop_fullLen_lt _
  sidecar_short := sidecarShort_delivered (y := (feedCipher p s).1) (s := s)

/-- The ciphertext of a joined feed is that of its parts in turn, the chain carried (R121). -/
theorem feedCipher_append (a b : Bytes) (s : State) :
    feedCipher (a ++ b) s =
      ((feedCipher a s).1 ++ (feedCipher b (encFed a s)).1, (feedCipher b (encFed a s)).2) := by
  rw [feedCipher, ← List.append_assoc, take_fullLen_append, cbcEncBlocks_append _ _ _ (length_take_fullLen_mod _)]
  rfl

theorem consumed_encFed {p : Bytes} {s : State} (h : FeedFits p s) :
    (encFed p s).consumed.toNat = s.consumed.toNat + p.length :=
  (BitVec.toNat_ofNat _ _).trans (Nat.mod_eq_of_lt h.2)

/-- Feeding a joined byte string is feeding its parts in turn. -/
theorem encFed_append {a : Bytes} (b : Bytes) {s : State} (h : FeedFits a s) :
    encFed (a ++ b) s = encFed b (encFed a s) := by
  have hcons : s.consumed.toNat + (a ++ b).length = (encFed a s).consumed.toNat + b.length := by
    rw [consumed_encFed h, List.length_append, Nat.add_assoc]
  have hpend := drop_fullLen_append (s.pend ++ a) b
  rw [encFed, feedCipher_append, delivered_append _ h.1, hcons, ← List.append_assoc, hpend]
  rfl

/-- A joined feed fits exactly when its parts do in turn. -/
theorem feedFits_append (a b : Bytes) (s : State) : FeedFits (a ++ b) s ↔ FeedFits a s ∧ FeedFits b (encFed a s) := by
  have hdeliver := deliveryFits_append (feedCipher a s).1 (feedCipher b (encFed a s)).1 s
  have hcons : s.consumed.toNat + (a ++ b).length < 2 ^ 64 ↔ s.consumed.toNat + a.length < 2 ^ 64 ∧
      (BitVec.ofNat 64 (s.consumed.toNat + a.length)).toNat + b.length < 2 ^ 64 := by
    rw [List.length_append, BitVec.toNat_ofNat]
    omega
  rw [FeedFits, feedCipher_append, hdeliver, hcons]
  exact and_and_and_comm

/-- A feed of nothing changes nothing. -/
theorem exec_encFeed_nil {s : State} (h : FeedReady s) : exec (.encFeed []) s = .next s := by
  refine exec_of_body_ok (i := .encFeed []) h.accepts nofun ?_
  have h0 : fullLen s.pend = 0 := by have := h.pend_short; rw [fullLen_eq]; omega
  simp [bodyOf, encFeedBody, encFullBlocks_of_short s h.pend_short, toCounter_of_lt s.consumed.isLt, h0]

/-- After a feed that completed, a second one does what one feed of both does, a refusal included. -/
theorem exec_encFeed_encFed {a : Bytes} {s : State} (b : Bytes) (h : FeedReady s) (hfit : FeedFits a s) :
    exec (.encFeed b) (encFed a s) = exec (.encFeed (a ++ b)) s := by
  have hjoined : FeedFits (a ++ b) s ↔ FeedFits b (encFed a s) := (feedFits_append a b s).trans (and_iff_right hfit)
  have hfed : FeedReady (encFed a s) := feedReady_encFed h
  rw [exec_encFeed_eq b hfed.accepts hfed.sidecar_short, exec_encFeed_eq (a ++ b) h.accepts h.sidecar_short,
    encFed_append b hfit]
  exact if_congr hjoined.symm rfl rfl

/-- A run that begins with the same outcome goes on the same. -/
theorem execAll_cons_congr {i j : Instr} {is : List Instr} {s t : State} (h : exec i s = exec j t) :
    execAll (i :: is) s = execAll (j :: is) t := by
  rw [execAll, execAll, h]

/-- Feeds do what one feed of the joined bytes does: where one of them is refused, so is the joined one. -/
theorem execAll_encFeeds (parts : List Bytes) (is : List Instr) {s : State} (h : FeedReady s) :
    execAll (parts.map .encFeed ++ is) s = execAll (.encFeed parts.flatten :: is) s := by
  induction parts generalizing s with
  | nil => rw [List.flatten_nil, execAll_cons_of_next (exec_encFeed_nil h), List.map_nil, List.nil_append]
  | cons p rest ih =>
    rw [List.map_cons, List.cons_append, List.flatten_cons]
    by_cases hfit : FeedFits p s
    · rw [execAll_cons_of_next (exec_encFeed h.accepts h.sidecar_short hfit), ih (feedReady_encFed h),
        execAll_cons_congr (exec_encFeed_encFed _ h hfit)]
    · have hjoined : ¬ FeedFits (p ++ rest.flatten) s := fun hj => hfit ((feedFits_append p _ s).1 hj).1
      have hfeed (q : Bytes) := exec_encFeed_eq q h.accepts h.sidecar_short
      rw [execAll_cons_of_refused ((hfeed p).trans (if_neg hfit)),
        execAll_cons_of_refused ((hfeed _).trans (if_neg hjoined))]

/-! ### `ENC_START` (R190) -/

/-- `s` with a fresh encrypt pipeline under the keys `k` (R190). -/
def encOpened (k : KeySet) (sc : Bool) (s : State) : State :=
  { macInit (loadKeys k s) with
    scSt := if sc then .active else .none, scEn := sc
    pend := [], consumed := 0, emitted := 0, drained := false, finalized := false, mode := .enc }

/-- The load left an empty sidecar context, so that a fresh one differs in its lifecycle only. -/
theorem exec_encStart {mt : MediaType} {p : Bytes} {s : State} (sc : Bool) (ha : Accepts .encStart s)
    (h : p.length = 32) : exec (.encStart mt sc p) s = .next (encOpened (derivedKeys p mt) sc s) := by
  refine exec_of_body_ok (i := .encStart mt sc p) ha nofun ?_
  rw [bodyOf, encStartBody, bind_derive_of_length mt h]
  cases sc <;> rfl

/-- Settles O43. -/
theorem encStartConstructsThePipeline : Obligations.EncStartConstructsThePipeline := by
  unfold Obligations.EncStartConstructsThePipeline
  intro mt sc p s ha hp
  rw [← derivedKeys_bytes]
  exact ⟨_, exec_encStart sc ha hp, keyBytes_loadKeys _ s, rfl⟩

theorem feedReady_encOpened {s : State} (k : KeySet) (sc : Bool) (ha : Accepts .encStart s) :
    FeedReady (encOpened k sc s) where
  accepts := ⟨ha.1, nofun, rfl⟩
  pend_short := Nat.zero_lt_succ _
  sidecar_short := fun _ => Nat.zero_lt_succ _

/-- A start opens a pipeline or leaves an error latched. -/
theorem encStart_opens_or_stops (mt : MediaType) (sc : Bool) (key : Bytes) (s : State) :
    (Accepts .encStart s ∧ key.length = 32) ∨ ∃ t : State, t.err ≠ none ∧ exec (.encStart mt sc key) s = .next t := by
  rcases accepts_or_rejects .encStart s with ha | ⟨t, ht, hrun⟩
  · by_cases hkey : key.length = 32
    · exact .inl ⟨ha, hkey⟩
    · exact .inr ⟨raiseError Opcode.encStart.code .invalidKeyLength s, nofun,
        exec_of_body_raise (i := .encStart mt sc key) ha nofun (bind_derive_of_length_ne mt hkey _)⟩
  · exact .inr ⟨t, ht, hrun _⟩

/-- Settles O46: in an open pipeline the feeds join; without one the start has latched an error, and no other command of
either run has an effect. -/
theorem encryptionIsChunkIndependent : Obligations.EncryptionIsChunkIndependent := by
  unfold Obligations.EncryptionIsChunkIndependent
  intro mt sc key parts s
  rw [encryptRun, encryptRun]
  rcases encStart_opens_or_stops mt sc key s with ⟨ha, hkey⟩ | ⟨t, ht, hstop⟩
  · have hready := feedReady_encOpened (derivedKeys key mt) sc ha
    rw [execAll_cons_of_next (exec_encStart sc ha hkey), execAll_cons_of_next (exec_encStart sc ha hkey),
      execAll_encFeeds _ _ hready, List.map_singleton, List.singleton_append]
  · rw [execAll_cons_of_next hstop, execAll_cons_of_next hstop, execAll_of_err ht (by simp), execAll_of_err ht (by simp)]

/-! ### `ENC_END` (R193) -/

/-- The last ciphertext of a pipeline, from the padded pending bytes, and the chain state after it (R193). -/
def finalCipher (s : State) : Bytes × Block := cbcEncBlocks s.cipherKey s.chain (pkcs7Pad s.pend)

/-- `s` after its encrypt pipeline delivered `y` as the last ciphertext and closed (R193, R194). -/
def encSealed (y : Bytes) (s : State) : State :=
  pipelineClosed { released (delivered y s) with
    out := s.out ++ y ++ tag10 s.macKey (s.macMsg ++ y)
    emitted := BitVec.ofNat 64 (s.emitted.toNat + y.length + 10) }

/-- No counter that the last delivery, the trailer and a trailing window add to passes 2^64 − 1 (R9, R193). -/
structure SealFits (y : Bytes) (s : State) : Prop where
  delivery : DeliveryFits y s
  trailer : s.emitted.toNat + y.length + 10 < 2 ^ 64
  window : s.scEn = true → (delivered y s).scCount.toNat + 1 < 2 ^ 64

@[simp] theorem encSealed_out (y : Bytes) (s : State) :
    (encSealed y s).out = s.out ++ y ++ tag10 s.macKey (s.macMsg ++ y) := rfl

@[simp] theorem encSealed_emitted (y : Bytes) (s : State) :
    (encSealed y s).emitted = BitVec.ofNat 64 (s.emitted.toNat + y.length + 10) := rfl

theorem encSealed_sco (y : Bytes) (s : State) :
    (encSealed y s).sco = if s.scEn then (sidecarReleased (sidecarFed y s)).sco else s.sco := by
  rw [encSealed, pipelineClosed_sco]
  cases hen : s.scEn with
  | true => simp [delivered_of_enabled hen, hen]
  | false => simp [hen]

/-- The release after the last delivery completes, if the trailing window can be counted (R173). -/
theorem scFinalizeIfEnabled_delivered {y : Bytes} {s : State} (hfit : SealFits y s) (c : Block) :
    scFinalizeIfEnabled { delivered y s with chain := c } = .ok (released { delivered y s with chain := c }) := by
  rw [scFinalizeIfEnabled_eq]
  exact if_pos fun hen _ => hfit.window hen

theorem exec_encEnd {s : State} (ha : Accepts .encEnd s) (hfit : SealFits (finalCipher s).1 s) :
    exec .encEnd s = .next (encSealed (finalCipher s).1 s) := by
  have hblocks : encBlocks (pkcs7Pad s.pend) s =
      .ok { delivered (finalCipher s).1 s with chain := (finalCipher s).2 } :=
    encBlocks_of_fits hfit.delivery.1 hfit.delivery.2
  have htrailer := hfit.trailer
  rw [← emitted_delivered hfit.delivery] at htrailer
  refine exec_of_body_ok (i := .encEnd) ha nofun ?_
  rw [bodyOf, encEndBody, hblocks, bind_ok, scFinalizeIfEnabled_delivered hfit, bind_ok, encSealed,
    ← emitted_delivered hfit.delivery]
  exact bind_toCounter_of_lt htrailer _

/-- Settles O45: the count after the last delivery is the sidecar's own. -/
theorem encEndSealsTheMessage : Obligations.EncEndSealsTheMessage := by
  unfold Obligations.EncEndSealsTheMessage
  intro s ha y htrailer hside
  have hemit : s.emitted.toNat + y.length < 2 ^ 64 := Nat.lt_of_le_of_lt (Nat.le_add_right _ _) htrailer
  refine exec_encEnd ha ⟨⟨fun hen => (hside hen).1, hemit⟩, htrailer, fun hen => ?_⟩
  rw [delivered_scCount, if_pos hen]
  exact (hside hen).2

/-! ### A feed and the end (R193, R197) -/

/-- The ciphertext of a feed and the last one are that of all the padded bytes (R121, R123). -/
theorem feedCipher_append_finalCipher (p : Bytes) (s : State) :
    (feedCipher p s).1 ++ (finalCipher (encFed p s)).1 =
      (cbcEncBlocks s.cipherKey s.chain (pkcs7Pad (s.pend ++ p))).1 := by
  rw [pkcs7Pad_eq_fullLen, cbcEncBlocks_append _ _ _ (length_take_fullLen_mod _)]
  rfl

/-- After a feed, delivering and closing is delivering both ciphertexts at once and closing; only `CONSUMED` tells. -/
theorem encSealed_encFed {p : Bytes} (y : Bytes) {s : State} (h : FeedFits p s) :
    encSealed y (encFed p s) =
      { encSealed ((feedCipher p s).1 ++ y) s with consumed := BitVec.ofNat 64 (s.consumed.toNat + p.length) } := by
  have hemit : s.emitted.toNat + ((feedCipher p s).1 ++ y).length = (encFed p s).emitted.toNat + y.length := by
    rw [List.length_append, ← Nat.add_assoc, ← emitted_delivered h.1]
    rfl
  rw [encSealed, encSealed, hemit, delivered_append y h.1, ← List.append_assoc, ← List.append_assoc]
  rfl

theorem sealFits_encFed {p y : Bytes} {s : State} (hfit : SealFits ((feedCipher p s).1 ++ y) s) :
    SealFits y (encFed p s) := by
  obtain ⟨hdeliver, htrailer, hwindow⟩ := hfit
  obtain ⟨hfirst, hlast⟩ := (deliveryFits_append _ y s).1 hdeliver
  rw [List.length_append, ← Nat.add_assoc, ← emitted_delivered hfirst] at htrailer
  rw [delivered_append y hfirst] at hwindow
  exact ⟨hlast, htrailer, hwindow⟩

/-- One feed and the end put the ciphertext of all the padded bytes out at once, if that fits. -/
theorem execAll_encFeed_encEnd {p c : Bytes} {s : State} (h : FeedReady s)
    (hc : c = (cbcEncBlocks s.cipherKey s.chain (pkcs7Pad (s.pend ++ p))).1) (hfit : SealFits c s)
    (hcons : s.consumed.toNat + p.length < 2 ^ 64) :
    execAll [.encFeed p, .encEnd] s =
      .next { encSealed c s with consumed := BitVec.ofNat 64 (s.consumed.toNat + p.length) } := by
  rw [← feedCipher_append_finalCipher] at hc
  subst hc
  have hfeed : FeedFits p s := ⟨((deliveryFits_append _ _ s).1 hfit.delivery).1, hcons⟩
  have hend : Accepts .encEnd (encFed p s) := ⟨h.accepts.1, nofun, h.accepts.2.2⟩
  rw [execAll_cons_of_next (exec_encFeed h.accepts h.sidecar_short hfeed), execAll_singleton,
    exec_encEnd hend (sealFits_encFed hfit), encSealed_encFed _ hfeed]

/-! ### The wire format (R196, R197) -/

@[simp] theorem encOpened_scEn (k : KeySet) (sc : Bool) (s : State) : (encOpened k sc s).scEn = sc := rfl
@[simp] theorem encOpened_macKey (k : KeySet) (sc : Bool) (s : State) : (encOpened k sc s).macKey = k.macKey := rfl
@[simp] theorem encOpened_macMsg (k : KeySet) (sc : Bool) (s : State) : (encOpened k sc s).macMsg = bytesOf k.iv := rfl
@[simp] theorem encOpened_consumed (k : KeySet) (sc : Bool) (s : State) : (encOpened k sc s).consumed = 0#64 := rfl
@[simp] theorem encOpened_emitted (k : KeySet) (sc : Bool) (s : State) : (encOpened k sc s).emitted = 0#64 := rfl
@[simp] theorem encOpened_out (k : KeySet) (sc : Bool) (s : State) : (encOpened k sc s).out = s.out := rfl
@[simp] theorem encOpened_sco (k : KeySet) (sc : Bool) (s : State) : (encOpened k sc s).sco = s.sco := rfl

/-- A start leaves a sidecar context that no byte was fed to, requested or not. -/
theorem freshSidecar_encOpened (k : KeySet) (sc : Bool) (s : State) : FreshSidecar (encOpened k sc s) :=
  ⟨rfl, rfl, rfl, rfl, rfl⟩

/-- A new pipeline takes every ciphertext whose length, with the trailer, `EMITTED` can hold. -/
theorem sealFits_encOpened {c : Bytes} (k : KeySet) (sc : Bool) (s : State) (hc : c.length + 10 < 2 ^ 64) :
    SealFits c (encOpened k sc s) := by
  have hfresh := freshSidecar_encOpened k sc s
  have hlt : c.length < 2 ^ 64 := Nat.lt_of_le_of_lt (Nat.le_add_right _ _) hc
  refine ⟨⟨fun _ => hfresh.countersFit hlt, ?_⟩, ?_, fun hen => ?_⟩
  · rwa [encOpened_emitted, BitVec.toNat_zero, Nat.zero_add]
  · rwa [encOpened_emitted, BitVec.toNat_zero, Nat.zero_add]
  · rw [delivered_scCount, if_pos hen]
    exact hfresh.scCount_sidecarFed_succ_lt hlt

/-- The end of a pipeline releases the sidecar of its whole ciphertext, if it was requested. -/
theorem encSealed_encOpened_sco {c : Bytes} (k : KeySet) (sc : Bool) (s : State) (hc : c.length < 2 ^ 64) :
    (encSealed c (encOpened k sc s)).sco = s.sco ++ if sc then sidecarOf k.macKey c else [] := by
  rw [encSealed_sco, (freshSidecar_encOpened k sc s).sco_sidecarReleased hc]
  cases sc <;> simp

/-- A run that feeds its plaintext at once seals the ciphertext of the padded plaintext under the derived keys. -/
theorem execAll_encryptRun {mt : MediaType} {key p c : Bytes} {s : State} (sc : Bool) (ha : Accepts .encStart s)
    (hkey : key.length = 32) (hp : p.length < 2 ^ 64) (hfit : c.length + 10 < 2 ^ 64)
    (hc : c = (cbcEncBlocks (derivedKeys key mt).cipherKey (derivedKeys key mt).iv (pkcs7Pad p)).1) :
    execAll (encryptRun mt sc key [p]) s =
      .next { encSealed c (encOpened (derivedKeys key mt) sc s) with consumed := BitVec.ofNat 64 p.length } := by
  have hready := feedReady_encOpened (derivedKeys key mt) sc ha
  have hrun := execAll_encFeed_encEnd hready hc (sealFits_encOpened _ sc s hfit)
    (by rwa [encOpened_consumed, BitVec.toNat_zero, Nat.zero_add])
  rw [encOpened_consumed, BitVec.toNat_zero, Nat.zero_add] at hrun
  rw [encryptRun, execAll_cons_of_next (exec_encStart sc ha hkey), List.map_singleton, List.singleton_append, hrun]

/-- Settles O47: the run comes down to one closed form, whose streams and counters are read off. -/
theorem encryptPipelineWireFormat : Obligations.EncryptPipelineWireFormat := by
  unfold Obligations.EncryptPipelineWireFormat
  intro mt sc key p s ha hkey hp k c
  have hclen : c.length = 16 * (p.length / 16 + 1) := by
    rw [length_cbcEncBlocks, length_pkcs7Pad]
    omega
  have hfit : c.length + 10 < 2 ^ 64 := by omega
  have hout : (encSealed c (encOpened k sc s)).out = s.out ++ c ++ tag10 k.macKey (bytesOf k.iv ++ c) := by
    rw [encSealed_out, encOpened_out, encOpened_macKey, encOpened_macMsg]
  have hsco := encSealed_encOpened_sco (c := c) k sc s (by omega)
  have hcons : (BitVec.ofNat 64 p.length).toNat = p.length := Nat.mod_eq_of_lt (by omega)
  refine ⟨_, execAll_encryptRun sc ha hkey (by omega) hfit rfl, ha.1, rfl, hout, hsco, hclen, ?outLength, ?scoLength,
    hcons, ?emitted⟩
  case outLength =>
    rw [hout, List.length_append, List.length_append, length_tag10, Nat.add_assoc]
  case scoLength =>
    rw [hsco, List.length_append]
    cases sc with
    | true => rw [if_pos rfl, if_pos rfl, sidecarOf, length_windowTags]
    | false => rfl
  case emitted =>
    rw [hcons, ← hclen, encSealed_emitted, encOpened_emitted, BitVec.toNat_zero, Nat.zero_add, BitVec.toNat_ofNat,
      Nat.mod_eq_of_lt hfit]

end Sys2Proof.Machine
end

section
/-! PROOFS. The decrypt pipeline's own laws (45_decrypt_pipeline.md R210 to R216): what each command does, its errors
included, verify before release (R214), the round trip (R215), and the chunk law of the feeds (R216). -/

namespace Sys2Proof.Machine

open Sys2Proof

/-! ### `DEC_START` (R210) -/

/-- Settles O48. -/
theorem decStartConstructsThePipeline : Obligations.DecStartConstructsThePipeline := by
  unfold Obligations.DecStartConstructsThePipeline
  intro mt p s ha hp
  rw [← derivedKeys_bytes]
  exact ⟨_, exec_decStart ha hp, keyBytes_loadKeys _ s, rfl⟩

/-! ### `DEC_FEED` (R211, R212) -/

/-- The spool can hold what a feed of `p` adds to it (R212). -/
abbrev SpoolHolds (p : Bytes) (s : State) : Prop :=
  spoolFits s.params.spoolCap (s.spool.length + ((s.tail ++ p).length - 10)) = true

/-- The capacity is checked before anything is written (R212). -/
theorem exec_decFeed_of_overflow {p : Bytes} {s : State} (ha : Accepts .decFeed s) (h : ¬ SpoolHolds p s) :
    exec (.decFeed p) s = .next (raiseError Opcode.decFeed.code .spoolOverflow s) := by
  refine exec_of_body_raise (i := .decFeed p) ha nofun ?_
  exact bind_require_of_false (Bool.eq_false_iff.2 h) _ _

/-- Settles O49: the capacity is the one check of the command. -/
theorem decFeedWithholdsTheTrailer : Obligations.DecFeedWithholdsTheTrailer := by
  unfold Obligations.DecFeedWithholdsTheTrailer
  intro p s ha buf k
  exact ⟨exec_decFeed ha, fun hfull => exec_decFeed_of_overflow ha (Bool.eq_false_iff.1 hfull)⟩

/-! ### `DEC_END` after the tag is verified (R213) -/

/-- The pseudocode of R213 below its check of the tag. -/
def decReleaseBody (s : State) : Result State := do
  require (wholeBlocks s.spool) .unalignedCiphertext
  let p ← unpadOrRaise (cbcDecBlocks s.cipherKey s.iv s.spool).1
  let emitted ← toCounter p.length
  return endPipeline { emitOut p s with emitted := emitted }

/-- With enough bytes and the right tag, decryption is what is left to do. -/
theorem decEndBody_of_verified {s : State} (hlen : 10 ≤ s.consumed.toNat) (htag : s.tail = macTag s) :
    decEndBody s = decReleaseBody s := by
  rw [decEndBody, Config.tagLen, bind_require_of_true (decide_eq_true hlen),
    bind_require_of_true (ctEq10_macTag.2 htag)]
  rfl

theorem exec_decEnd_of_unaligned {s : State} (ha : Accepts .decEnd s) (hlen : 10 ≤ s.consumed.toNat)
    (htag : s.tail = macTag s) (hwhole : ¬ wholeBlocks s.spool = true) :
    exec .decEnd s = .next (raiseError Opcode.decEnd.code .unalignedCiphertext s) := by
  refine exec_of_body_raise (i := .decEnd) ha nofun ((decEndBody_of_verified hlen htag).trans ?_)
  exact bind_require_of_false (Bool.eq_false_iff.2 hwhole) _ _

theorem exec_decEnd_of_padding {s : State} (ha : Accepts .decEnd s) (hlen : 10 ≤ s.consumed.toNat)
    (htag : s.tail = macTag s) (hwhole : wholeBlocks s.spool = true)
    (hpad : pkcs7Unpad (cbcDecBlocks s.cipherKey s.iv s.spool).1 = none) :
    exec .decEnd s = .next (raiseError Opcode.decEnd.code .invalidPadding s) := by
  refine exec_of_body_raise (i := .decEnd) ha nofun ((decEndBody_of_verified hlen htag).trans ?_)
  rw [decReleaseBody, bind_require_of_true hwhole, unpadOrRaise_eq_error.2 ⟨hpad, rfl⟩, bind_error]

/-- `s` after its decrypt pipeline released the plaintext `p` and closed (R213, R194). -/
def decReleased (p : Bytes) (s : State) : State :=
  pipelineClosed { s with out := s.out ++ p, emitted := BitVec.ofNat 64 p.length }

theorem exec_decEnd {s : State} {p : Bytes} (ha : Accepts .decEnd s) (hlen : 10 ≤ s.consumed.toNat)
    (htag : s.tail = macTag s) (hwhole : wholeBlocks s.spool = true)
    (hp : pkcs7Unpad (cbcDecBlocks s.cipherKey s.iv s.spool).1 = some p) (hfit : p.length < 2 ^ 64) :
    exec .decEnd s = .next (decReleased p s) := by
  refine exec_of_body_ok (i := .decEnd) ha nofun ((decEndBody_of_verified hlen htag).trans ?_)
  rw [decReleaseBody, bind_require_of_true hwhole, unpadOrRaise_eq_ok.2 hp, bind_ok, bind_toCounter_of_lt hfit]
  rfl

/-- Settles O50. -/
theorem decEndReleasesThePlaintext : Obligations.DecEndReleasesThePlaintext := by
  unfold Obligations.DecEndReleasesThePlaintext
  intro s p ha hlen htag hpos hmod hp hfit
  exact exec_decEnd ha hlen htag ((wholeBlocks_iff _).2 ⟨hpos, hmod⟩) hp hfit

/-- Settles O51: one lemma per check, in the order of the checks. -/
theorem decEndErrorsInOrder : Obligations.DecEndErrorsInOrder := by
  unfold Obligations.DecEndErrorsInOrder
  intro s ha
  refine ⟨exec_decEnd_of_short ha, fun hlen => ⟨exec_decEnd_of_mismatch ha hlen, fun htag => ⟨fun hbad => ?unaligned,
    fun hpos hmod => exec_decEnd_of_padding ha hlen htag ((wholeBlocks_iff _).2 ⟨hpos, hmod⟩)⟩⟩⟩
  case unaligned =>
    refine exec_decEnd_of_unaligned ha hlen htag fun hwhole => ?_
    obtain ⟨hpos, hmod⟩ := (wholeBlocks_iff _).1 hwhole
    exact hbad.elim (Nat.ne_of_gt hpos) fun hne => hne hmod

/-! ### Verify before release (R214) -/

/-- In a decrypt pipeline the commands that can complete feed it or end it (R88). -/
theorem Completes.opcode_of_dec {i : Instr} {s t : State} (hc : Completes s i t) (ha : Accepts i.opcode s)
    (hdec : s.mode = .dec) : i.opcode = .decFeed ∨ i.opcode = .decEnd := by
  obtain ⟨-, -, hlegal⟩ := ha
  rw [hdec, modeLegal_dec_iff] at hlegal
  rcases hlegal with hop | hop | hop
  · exact .inl hop
  · exact .inr hop
  · cases eq_abort_of_opcode hop
    cases hc

/-- Settles O52: an error leaves `OUT`, a completed feed leaves `OUT`, and a completed end has passed every check. -/
theorem noPlaintextBeforeVerification : Obligations.NoPlaintextBeforeVerification := by
  unfold Obligations.NoPlaintextBeforeVerification
  intro i s t hdec hi h hout
  rcases exec_outcomes h with ⟨hab, -⟩ | ⟨-, -, rfl⟩ | ⟨-, e, rfl⟩ | ⟨ha, hc⟩
  · exact absurd hab hi
  · exact absurd rfl hout
  · exact absurd rfl hout
  · have herr := hc.err_eq.trans ha.1
    have hop := hc.opcode_of_dec ha hdec
    cases hc with
    | decFeed => exact absurd rfl hout
    | decEnd p hlen htag hwhole hp hfit =>
      obtain ⟨hpos, hmod⟩ := (wholeBlocks_iff _).1 hwhole
      exact ⟨rfl, ha.1, herr, hlen, htag, hpos, hmod, p, hp, rfl⟩
    | _ => simp [Instr.opcode] at hop

/-! ### The round trip (R215) -/

/-- The bytes before a trailer of 10 bytes are spooled. -/
theorem spool_spooled_decOpened (k : KeySet) (c : Bytes) {trailer : Bytes} (s : State) (h : trailer.length = 10) :
    (spooled (c ++ trailer) (decOpened k s)).spool = c := by
  simp [spooled, decOpened, h]

/-- A run on a padded plaintext's ciphertext and its tag releases the plaintext. -/
theorem execAll_decryptRun_sealed {mt : MediaType} {key p c e : Bytes} {k : KeySet} {s : State}
    (ha : Accepts .decStart s) (hkey : key.length = 32) (hk : derivedKeys key mt = k)
    (hc : (cbcEncBlocks k.cipherKey k.iv (pkcs7Pad p)).1 = c) (he : e = c ++ tag10 k.macKey (bytesOf k.iv ++ c))
    (hspool : spoolFits s.params.spoolCap (e.length - 10) = true) (hlen : e.length < 2 ^ 64) (hp : p.length < 2 ^ 64) :
    execAll (decryptRun mt key [e]) s = .next (decReleased p (spooled e (decOpened k s))) := by
  have htrailer : (tag10 k.macKey (bytesOf k.iv ++ c)).length = 10 := length_tag10 _ _
  have hspooled : (spooled e (decOpened k s)).spool = c := by rw [he, spool_spooled_decOpened _ _ _ htrailer]
  obtain ⟨-, hend⟩ := accepts_decOpened k ha
  rw [execAll_decryptRun ha hkey hspool hlen, hk]
  refine exec_decEnd (hend e) ?length ?tag ?whole ?plain hp
  case length =>
    rw [consumed_spooled_decOpened _ _ hlen, he, List.length_append, htrailer]
    exact Nat.le_add_left _ _
  case tag => rw [he, tail_spooled_decOpened _ _ _ htrailer, macTag_spooled_decOpened _ _ _ htrailer]
  case whole =>
    rw [hspooled, ← hc]
    exact wholeBlocks_sealed _ _ p
  case plain =>
    have hopen : (cbcDecBlocks k.cipherKey k.iv c).1 = pkcs7Pad p := by
      rw [← hc, cbcDecBlocks_cbcEncBlocks _ _ (length_pkcs7Pad_mod p)]
    rw [hspooled]
    exact (congrArg pkcs7Unpad hopen).trans (pkcs7Unpad_pkcs7Pad p)

/-- Settles O53: the encrypt run puts out a ciphertext and its tag, which the decrypt run opens. -/
theorem decryptionInvertsEncryption : Obligations.DecryptionInvertsEncryption := by
  unfold Obligations.DecryptionInvertsEncryption
  intro mt sc key p s ha hkey hp
  obtain ⟨t, hrun, herr, -, hout, -, hclen, -⟩ := encryptPipelineWireFormat mt sc key p s ha hkey hp
  refine ⟨t, _, hrun, herr, by rw [hout, List.append_assoc], fun s' ha' hspool => ?_⟩
  refine ⟨_, execAll_decryptRun_sealed ha' hkey rfl rfl rfl hspool ?_ (by omega), ha'.1, rfl⟩
  rw [List.length_append, length_tag10, hclen]
  omega

/-! ### The chunk law of feeds (R216) -/

theorem spoolFits_of_le {cap : Option Nat} {m n : Nat} (hle : m ≤ n) (h : spoolFits cap n = true) :
    spoolFits cap m = true := by
  cases cap with
  | none => rfl
  | some c => exact decide_eq_true (Nat.le_trans hle (of_decide_eq_true h))

theorem length_spool_spooled (p : Bytes) (s : State) :
    (spooled p s).spool.length = s.spool.length + ((s.tail ++ p).length - 10) := by
  rw [spooled, List.length_append, List.length_take, Nat.min_eq_left (Nat.sub_le _ _)]

/-- `TAIL` holds the last 10 bytes, or all where fewer came (R211). -/
theorem length_tail_spooled (p : Bytes) (s : State) : (spooled p s).tail.length = min 10 (s.tail ++ p).length := by
  rw [spooled, List.length_drop]
  omega

/-- A feed moves bytes from `TAIL` to `SPOOL` and loses none. -/
theorem spool_append_tail_spooled (p : Bytes) (s : State) :
    (spooled p s).spool ++ (spooled p s).tail = s.spool ++ (s.tail ++ p) := by
  rw [spooled, List.append_assoc, List.take_append_drop]

theorem nonTrailerLen_eq (buf : Bytes) : nonTrailerLen buf = buf.length - 10 := rfl

theorem nonTrailerLen_le (buf : Bytes) : nonTrailerLen buf ≤ buf.length := Nat.sub_le _ _

theorem nonTrailerLen_append (a b : Bytes) :
    nonTrailerLen (a ++ b) = nonTrailerLen a + nonTrailerLen (a.drop (nonTrailerLen a) ++ b) := by
  simp only [nonTrailerLen_eq, List.length_append, List.length_drop]
  omega

theorem take_nonTrailerLen_append (a b : Bytes) :
    (a ++ b).take (nonTrailerLen (a ++ b)) = a.take (nonTrailerLen a) ++
      (a.drop (nonTrailerLen a) ++ b).take (nonTrailerLen (a.drop (nonTrailerLen a) ++ b)) := by
  rw [nonTrailerLen_append, List.take_add, List.take_append_of_le_length (nonTrailerLen_le a),
    List.drop_append_of_le_length (nonTrailerLen_le a)]

theorem drop_nonTrailerLen_append (a b : Bytes) :
    (a ++ b).drop (nonTrailerLen (a ++ b)) =
      (a.drop (nonTrailerLen a) ++ b).drop (nonTrailerLen (a.drop (nonTrailerLen a) ++ b)) := by
  rw [nonTrailerLen_append, ← List.drop_drop, List.drop_append_of_le_length (nonTrailerLen_le a)]

/-- The closed form of a feed, with the model's own length (R211). -/
theorem spooled_eq (p : Bytes) (s : State) :
    spooled p s = { s with
      macMsg := s.macMsg ++ (s.tail ++ p).take (nonTrailerLen (s.tail ++ p))
      spool := s.spool ++ (s.tail ++ p).take (nonTrailerLen (s.tail ++ p))
      tail := (s.tail ++ p).drop (nonTrailerLen (s.tail ++ p))
      consumed := BitVec.ofNat 64 (s.consumed.toNat + p.length) } := rfl

/-- Feeding a joined byte string is feeding its parts in turn. -/
theorem spooled_append (a b : Bytes) (s : State) : spooled (a ++ b) s = spooled b (spooled a s) := by
  have hcons : BitVec.ofNat 64 (s.consumed.toNat + (a ++ b).length) =
      BitVec.ofNat 64 ((spooled a s).consumed.toNat + b.length) := by
    rw [spooled_eq, List.length_append, ← Nat.add_assoc, BitVec.ofNat_add, BitVec.ofNat_add _ b.length,
      BitVec.ofNat_toNat, BitVec.setWidth_eq]
  rw [spooled_eq (a ++ b), hcons, ← List.append_assoc, take_nonTrailerLen_append (s.tail ++ a) b,
    drop_nonTrailerLen_append (s.tail ++ a) b, ← List.append_assoc, ← List.append_assoc]
  rfl

/-- A joined feed fits the spool exactly when its parts do in turn. -/
theorem spoolHolds_append (a b : Bytes) (s : State) :
    SpoolHolds (a ++ b) s ↔ SpoolHolds a s ∧ SpoolHolds b (spooled a s) := by
  have hlast : (spooled a s).spool.length + (((spooled a s).tail ++ b).length - 10) =
      s.spool.length + ((s.tail ++ (a ++ b)).length - 10) := by
    have htail := length_tail_spooled a s
    rw [length_spool_spooled]
    simp only [List.length_append] at htail ⊢
    omega
  have hfirst : s.spool.length + ((s.tail ++ a).length - 10) ≤ s.spool.length + ((s.tail ++ (a ++ b)).length - 10) := by
    simp only [List.length_append]
    omega
  rw [SpoolHolds, SpoolHolds, SpoolHolds, hlast]
  exact ⟨fun h => ⟨spoolFits_of_le hfirst h, h⟩, And.right⟩

theorem accepts_spooled {s : State} (p : Bytes) (ha : Accepts .decFeed s) : Accepts .decFeed (spooled p s) := ha

/-- A counter that has room for a joined byte string has room for its first part, and after that for its second. -/
theorem consumed_fits_append {a b : Bytes} {s : State} (h : s.consumed.toNat + (a ++ b).length < 2 ^ 64) :
    s.consumed.toNat + a.length < 2 ^ 64 ∧ (spooled a s).consumed.toNat + b.length < 2 ^ 64 := by
  rw [List.length_append] at h
  rw [spooled, BitVec.toNat_ofNat]
  omega

/-- Feeds that fit the spool leave what one feed of the joined bytes leaves. -/
theorem execAll_decFeeds_of_holds (p : Bytes) (rest : List Bytes) {s : State} (ha : Accepts .decFeed s)
    (hcons : s.consumed.toNat + (p :: rest).flatten.length < 2 ^ 64) (h : SpoolHolds (p :: rest).flatten s) :
    execAll ((p :: rest).map .decFeed) s = .next (spooled (p :: rest).flatten s) := by
  induction rest generalizing p s with
  | nil =>
    rw [List.flatten_singleton] at hcons h ⊢
    rw [List.map_singleton, execAll_singleton, exec_decFeed ha h hcons]
  | cons q rest ih =>
    rw [List.flatten_cons] at hcons h ⊢
    obtain ⟨hfirst, hlast⟩ := (spoolHolds_append p _ s).1 h
    obtain ⟨hcons, hcons'⟩ := consumed_fits_append hcons
    rw [List.map_cons, execAll_cons_of_next (exec_decFeed ha hfirst hcons), ih q (accepts_spooled p ha) hcons' hlast,
      spooled_append]

/-- Feeds that together overflow the spool end in `SpoolOverflow`, whichever of them crosses the capacity (R216). -/
theorem execAll_decFeeds_of_overflow (p : Bytes) (rest : List Bytes) {s : State} (ha : Accepts .decFeed s)
    (hcons : s.consumed.toNat + (p :: rest).flatten.length < 2 ^ 64) (h : ¬ SpoolHolds (p :: rest).flatten s) :
    ∃ t, execAll ((p :: rest).map .decFeed) s = .next t ∧ t.err = some .spoolOverflow := by
  induction rest generalizing p s with
  | nil =>
    rw [List.flatten_singleton] at h
    exact ⟨_, (execAll_singleton _ s).trans (exec_decFeed_of_overflow ha h), rfl⟩
  | cons q rest ih =>
    rw [List.flatten_cons] at hcons h
    rw [List.map_cons]
    by_cases hfirst : SpoolHolds p s
    · obtain ⟨hcons, hcons'⟩ := consumed_fits_append hcons
      rw [execAll_cons_of_next (exec_decFeed ha hfirst hcons)]
      exact ih q (accepts_spooled p ha) hcons' fun hlast => h ((spoolHolds_append p _ s).2 ⟨hfirst, hlast⟩)
    · rw [execAll_cons_of_next (exec_decFeed_of_overflow ha hfirst)]
      exact ⟨_, execAll_of_err nofun (by simp), rfl⟩

/-- Settles O54: where the joined bytes fit the spool, both sides leave one closed form; elsewhere both overflow. -/
theorem decryptFeedsAreChunkIndependent : Obligations.DecryptFeedsAreChunkIndependent := by
  unfold Obligations.DecryptFeedsAreChunkIndependent
  intro parts s hne ha hcons
  obtain ⟨p, rest, rfl⟩ := List.exists_cons_of_ne_nil hne
  by_cases h : SpoolHolds (p :: rest).flatten s
  · exact ⟨_, _, exec_decFeed ha h hcons, execAll_decFeeds_of_holds p rest ha hcons h,
      fun _ => ⟨rfl, spool_append_tail_spooled _ s, length_tail_spooled _ s⟩, rfl⟩
  · obtain ⟨t', hrun, herr⟩ := execAll_decFeeds_of_overflow p rest ha hcons h
    exact ⟨_, t', exec_decFeed_of_overflow ha h, hrun, nofun, herr⟩

end Sys2Proof.Machine
end

section
/-! PROOFS. The two ways back to the reset state (46_host_and_control.md R231, 70_reset_and_hazards.md R270): the word of
`ABORT` decodes whatever payload comes with it, and its meaning and the platform reset's transaction are one function. -/

namespace Sys2Proof.Machine

open Sys2Proof

/-- `ABORT` ignores its payload, so its word decodes with any (R85). -/
theorem decode_abort (p : Bytes) : decode 0x000000FF p = .ok .abort := decode_of_match (op := .abort) rfl nofun

/-- `ABORT` makes no check of the error state, the unit access or the mode (R231). -/
theorem exec_abort (s : State) : exec .abort s = .next (resetState s) := rfl

theorem step_abort {s : State} {p : Bytes} {rest : List Transaction} (h : s.pending = .submit 0x000000FF p :: rest)
    (hp : payloadWf p = true) : step s = .next (resetState { s with pending := rest }) :=
  calc step s = submit 0x000000FF p { s with pending := rest } := step_of_pending h
    _ = exec .abort { s with pending := rest } := submit_of_decode _ hp (decode_abort p)
    _ = .next (resetState { s with pending := rest }) := exec_abort _

theorem step_reset {s : State} {rest : List Transaction} (h : s.pending = .reset :: rest) :
    step s = .next (resetState { s with pending := rest }) := step_of_pending h

/-- Settles O10: both steps are `resetState` on the same state, which is the reset column over its host side. -/
theorem abortAndResetRestoreTheResetState : Obligations.AbortAndResetRestoreTheResetState := by
  unfold Obligations.AbortAndResetRestoreTheResetState
  refine ⟨exec_abort, fun s p rest hp => ?_⟩
  have habort : step { s with pending := .submit 0x000000FF p :: rest } = .next (resetState { s with pending := rest }) :=
    step_abort rfl hp
  have hreset : step { s with pending := .reset :: rest } = .next (resetState { s with pending := rest }) :=
    step_reset rfl
  exact ⟨habort.trans hreset.symm, hreset⟩

end Sys2Proof.Machine
end

section
/-! PROOFS. Errors (60_exceptions.md R241 to R244). A command that latches an error failed one of the wrapper's two checks or
its own pseudocode raised the error, and in each case it leaves `raiseError`: that gives both precision (R241) and the list of
errors per command (R244). In the error state only the word of `ABORT` acts (R242). -/

namespace Sys2Proof.Machine

open Sys2Proof

variable {i : Instr} {s t : State} {e : EngineError}

/-! ### How a command comes to latch an error (R241, R243) -/

/-- Outside the error state, a command that ends with an error has raised it, and did nothing else: for want of its mode, for
want of unit access, or in its own pseudocode. -/
theorem raised_of_exec (hs : s.err = none) (h : exec i s = .next t) (ht : t.err = some e) :
    t = raiseError i.opcode.code e s ∧
      (bodyOf i s = .error (.raise e) ∨ (e = .sequenceError ∧ modeLegal i.opcode s.mode = false) ∨
        (e = .illegalCommand ∧ i.opcode.isUnit = true ∧ s.params.unitAccess = false)) := by
  rcases exec_cases h with ⟨-, rfl⟩ | ⟨-, he, -⟩ | ⟨-, hunit, haccess, rfl⟩ | ⟨-, hmode, rfl⟩ |
    ⟨hi, -, hb | ⟨e', hb, rfl⟩⟩
  · cases ht
  · exact absurd hs he
  · obtain rfl : .illegalCommand = e := Option.some.inj ht
    exact ⟨rfl, .inr (.inr ⟨rfl, hunit, haccess⟩)⟩
  · obtain rfl : .sequenceError = e := Option.some.inj ht
    exact ⟨rfl, .inr (.inl ⟨rfl, hmode⟩)⟩
  · have herr : t.err = none := (completes_of_bodyOf hi hb).err_eq.trans hs
    rw [herr] at ht
    cases ht
  · obtain rfl : e' = e := Option.some.inj ht
    exact ⟨rfl, .inl hb⟩

/-! ### Precision (R241) -/

/-- The opcode of a decoded command is the word's low byte. -/
theorem opcField_of_decode {w : Word} {p : Bytes} (h : decode w p = .ok i) : opcField w = i.opcode.code := by
  obtain ⟨op, hmatch, -, rfl⟩ := decode_eq_ok.1 h
  rw [opcField_of_match hmatch, opcode_buildInstr]

/-- Settles O14: a decoded command raises under its own opcode byte, and a rejected word under its low byte. -/
theorem errorsArePrecise : Obligations.ErrorsArePrecise := by
  unfold Obligations.ErrorsArePrecise
  intro w p s t e hs h ht
  show t = raiseError (opcField w) e s
  rcases submit_cases h with ⟨i, hd, hexec⟩ | hreject
  · rw [opcField_of_decode hd]
    exact (raised_of_exec hs hexec ht).1
  · rcases rejectWord_cases hreject with ⟨he, -⟩ | ⟨-, rfl⟩
    · exact absurd hs he
    · obtain rfl : .illegalCommand = e := Option.some.inj ht
      rfl

/-! ### The errors of each command (R244) -/

/-- The errors among the stops of an opcode are the ones listed for it. -/
theorem raise_mem_stopsOf {op : Opcode} : .raise e ∈ stopsOf op ↔ e ∈ ownErrors op := by
  by_cases hc : op ∈ countingOpcodes <;> simp [stopsOf, hc]

/-- Settles O16: what a command's own pseudocode raises is among the stops of its opcode. -/
theorem commandsRaiseOnlyTheirErrors : Obligations.CommandsRaiseOnlyTheirErrors := by
  unfold Obligations.CommandsRaiseOnlyTheirErrors
  intro i s t e hs h ht
  obtain ⟨-, hraise⟩ := raised_of_exec hs h ht
  exact hraise.imp_left fun hb => raise_mem_stopsOf.1 (stopsAs_bodyOf i s _ hb)

/-! ### The error state (R242) -/

/-- In the error state every word but that of `ABORT` is ignored, whether it spells a command or none. -/
theorem submit_of_err {w : Word} {p : Bytes} (hp : payloadWf p = true) (he : s.err ≠ none) (hw : w ≠ 0x000000FF) :
    submit w p s = .next s := by
  cases hd : decode w p with
  | ok i =>
    have hi : i ≠ .abort := by
      rintro rfl
      exact hw (word_of_decode_abort hd)
    rw [submit_of_decode s hp hd, exec_of_err he hi]
  | error _ => rw [submit_of_decode_error s hp hd, rejectWord_of_err w he]

/-- Settles O7: `step_abort` for the word of `ABORT`, `submit_of_err` for every other. -/
theorem errorStateObeysOnlyAbort : Obligations.ErrorStateObeysOnlyAbort := by
  unfold Obligations.ErrorStateObeysOnlyAbort
  intro s w p rest hpending hp he
  by_cases hw : w = 0x000000FF
  · subst hw
    rw [if_pos rfl]
    exact step_abort hpending hp
  · rw [if_neg hw, step_of_pending hpending]
    exact submit_of_err hp he hw

end Sys2Proof.Machine
end

section
/-! PROOFS. What the host reads after a reset (R271). -/

namespace Sys2Proof.Machine

open Sys2Proof

@[simp] theorem loHalf_zero : loHalf 0 = 0 := rfl

@[simp] theorem hiHalf_zero : hiHalf 0 = 0 := rfl

@[simp] theorem lenCounter_nil : lenCounter [] = 0 := rfl

/-- Past `STATUS` the map shows only counters and the lengths of byte strings (R38, R41). -/
theorem readReg_of_zero_counters {off : Nat} {s : State} (hoff : off ≠ 0) (hconsumed : s.consumed = 0)
    (hemitted : s.emitted = 0) (hscNext : s.scNext = 0) (hscEnd : s.scEnd = 0) (hscCount : s.scCount = 0)
    (hspool : s.spool = []) (hout : s.out = []) (hsco : s.sco = []) : readReg off s = 0 := by
  unfold readReg
  split
  · exact absurd rfl hoff
  all_goals simp only [hconsumed, hemitted, hscNext, hscEnd, hscCount, hspool, hout, hsco, lenCounter_nil, loHalf_zero,
    hiHalf_zero]

/-- Settles O9: offset 0 is `STATUS`, and a reset leaves every counter at 0 and every stream and buffer empty. -/
theorem registersAfterReset : Obligations.RegistersAfterReset := by
  unfold Obligations.RegistersAfterReset
  intro ps ts rs off
  by_cases hoff : off = 0
  · subst hoff
    simp only [true_and]
    exact status_resetWith ps ts rs
  · rw [if_neg fun h => hoff h.1]
    exact readReg_of_zero_counters hoff rfl rfl rfl rfl rfl rfl rfl rfl

end Sys2Proof.Machine
end
